-- ==== Sys2Proof/Word.lean ====
section
/-! DEFINITION. The word types of the PF2132 and saturating counts. -/

namespace Sys2Proof

/-- One byte of a frame. -/
abbrev Byte := BitVec 8

/-- A tick counter value; it wraps (R23). -/
abbrev Tick := BitVec 32

/-- An exchange tag (R2). -/
abbrev Tag := BitVec 32

/-- A CRC or answer digest (R3, R4). -/
abbrev Digest := BitVec 32

/-- A transaction class 0 to 15 (R1). -/
abbrev TxClass := BitVec 4

/-- A monitor's chain address, 0 = unassigned (R187). -/
abbrev ChainAddr := BitVec 4

/-- Index of one of the 32 slot records (R86). -/
abbrev SlotIndex := Fin 32

/-- Adds to a counter that saturates at `cap` (00_scope.md, Conventions). -/
def satAdd (cap n k : Nat) : Nat := min cap (n + k)

@[simp] theorem satAdd_le (cap n k : Nat) : satAdd cap n k ≤ cap := Nat.min_le_left _ _

end Sys2Proof
end

