-- ==== Sys2Proof/Syntax.lean ====
section
/-! DEFINITION. The commands of the block: one constructor per row of spec/opcode_table.json. -/

namespace Sys2Proof

/-- The two trunk ports (00_scope.md, System placement). -/
inductive Port where
  | up
  | down
  deriving DecidableEq, Repr

/-- The lines at a reset: RST_N low (R200), and the END strap as the STARTING that the reset begins samples
it (R201). -/
structure ResetLines where
  rstLow : Bool
  endLevel : Bool
  deriving DecidableEq, Repr

/-- The inputs at the end of STARTING: the level of MARK (R29), and at which ports a frame that the partner has
begun is still arriving (R6). -/
structure LoadInputs where
  markLevel : Bool
  upArriving : Bool
  downArriving : Bool
  deriving DecidableEq, Repr

/-- The orders that an edge of MARK leaves open: the slots that take their turn first, in order, the others
following in ascending order (R109), and whether the census snapshot of an align boundary is taken after the
MARK snapshot (R31). -/
structure EdgeOrders where
  turns : List SlotIndex
  censusLast : Bool
  deriving DecidableEq, Repr

/-- The commands. A row whose event carries something from outside has it as operand; the management
commands' parameters are the bytes of the copy in the command buffer (R181). -/
inductive Instr where
  /-- POWER_ON_RESET (R200), with the lines as they then stand. -/
  | powerOnReset (lines : ResetLines)
  /-- LINE_RESET (R200), in its two halves: RST_N driven low, and RST_N released. -/
  | lineReset (lines : ResetLines)
  /-- STORE_LOAD_COMPLETE (R201), with the inputs at that moment. -/
  | storeLoadComplete (inputs : LoadInputs)
  /-- CLAIM_TIMEOUT (R203). -/
  | claimTimeout
  /-- FRAME_COMPLETE (R5): the bytes that arrived at a port, check included. -/
  | frameComplete (port : Port) (bytes : List Byte)
  /-- FRAME_OVERRUN (R6). -/
  | frameOverrun (port : Port)
  /-- TAKE_UP_FRAME (R11). -/
  | takeUpFrame
  /-- TAKE_DOWN_FRAME (R12). The operands settle the two orders that R78 and R79 leave open when
  the frame completes a twin comparison: whether the HELD entry is removed first, and whether the
  condition against its slot is judged first. -/
  | takeDownFrame (heldRemovedFirst heldJudgedFirst : Bool)
  /-- UP_TRANSMIT_BEGIN (R17). -/
  | upTransmitBegin
  /-- DOWN_TRANSMIT_BEGIN (R18). -/
  | downTransmitBegin
  /-- TICK (R21). -/
  | tick
  /-- ENTRY_DEADLINE (R56) of the entry with this slot and tag. -/
  | entryDeadline (slot : SlotIndex) (tag : Tag)
  /-- ENTRY_LOSS (R57) of the entry with this slot and tag. -/
  | entryLoss (slot : SlotIndex) (tag : Tag)
  /-- TWIN_WINDOW_EXPIRY (R80) of the HELD entry with this slot and tag. -/
  | twinWindowExpiry (slot : SlotIndex) (tag : Tag)
  /-- PROBE_DEADLINE (R153). -/
  | probeDeadline
  /-- NATURAL_BOUNDARY (R26). `turns` names the slots that take their turn first, in order; the
  others follow in ascending order (R109 leaves the order open). -/
  | naturalBoundary (turns : List SlotIndex)
  /-- MARK_EDGE (R29): MARK is sampled at a level. High after low is the edge; any other sample is
  recorded. -/
  | markEdge (level : Bool) (orders : EdgeOrders)
  /-- PROBE_SERVICE (R151). -/
  | probeService
  /-- STORE_WRITE_COMPLETE (R211); `equal` is the result of comparing the readback. -/
  | storeWriteComplete (equal : Bool)
  /-- ENUMERATE (R187). -/
  | enumerate
  /-- IDENTIFY (R185). -/
  | identify
  /-- CLAIM (R204). -/
  | claim
  /-- RELEASE (R206). -/
  | release
  /-- RESET (R207). -/
  | reset
  /-- SET_RANGE (R188). -/
  | setRange
  /-- SET_GROUPS (R179). -/
  | setGroups
  /-- SET_TIMING (R189). -/
  | setTiming
  /-- WRITE_PROFILE (R191). -/
  | writeProfile
  /-- READ_PROFILE (R191). -/
  | readProfile
  /-- WRITE_POLICY (R124). -/
  | writePolicy
  /-- READ_POLICY (R124). -/
  | readPolicy
  /-- COMMIT (R192). -/
  | commit
  /-- ADMIT (R92). -/
  | admitSlot
  /-- PARK (R93). -/
  | park
  /-- FENCE (R136). -/
  | fence
  /-- UNFENCE (R137). -/
  | unfence
  /-- VACATE (R96). -/
  | vacate
  /-- PAIR (R70). -/
  | pair
  /-- UNPAIR (R71). -/
  | unpair
  /-- CONFIGURE_SLOT (R87). -/
  | configureSlot
  /-- SLOT_STATUS (R108). -/
  | slotStatus
  /-- READ_SAMPLE (R106). -/
  | readSample
  /-- SNAPSHOT (R195). -/
  | snapshot
  /-- READ_SNAPSHOT (R195). -/
  | readSnapshot
  /-- PROBE (R148). -/
  | probe
  /-- PROBE_RESULT (R155). -/
  | probeResult
  /-- STORE (R210). -/
  | store
  /-- CENSUS_QUERY (R172). -/
  | censusQuery
  /-- UNKNOWN (R182): a copy with no or an unassigned command code. -/
  | unknown
  /-- PARTNER_HOLD_CHANGE (R9): the partner at a port asserts or releases hold. -/
  | partnerHoldChange (port : Port) (asserted : Bool)
  /-- TRANSMIT_END (R16). -/
  | transmitEnd (port : Port)
  deriving DecidableEq, Repr

end Sys2Proof
end

