-- ==== Sys2Proof/Decode.lean ====
section
/-! DEFINITION. The command a table word spells. No row of spec/opcode_table.json has bits (every
"fields" is empty and no row is fixed), so no word spells a command: a management command reaches the
block as the payload bytes of an MGT frame (R181, R198), not as a word of the table. -/

namespace Sys2Proof

/-- The command spelled by a word of the table: none, since the table gives no row any bits. -/
def decodeTableWord (_nbits _w : Nat) : Option Instr := none

end Sys2Proof
end

