-- ==== Sys2Proof/Config.lean ====
section
/-! DEFINITION. The fixed capacities and codes of the part (00_scope.md, Fixed capacities; R185).
No value of this part is left free by the spec, so there is no opaque constant here. -/

namespace Sys2Proof.Config

/-- Frames each through buffer holds (R7). -/
def throughCapacity : Nat := 8
/-- Entries of the pending table (R35). -/
def tableCapacity : Nat := 2048
/-- Retry limit per entry (R44). -/
def retryLimit : Nat := 3
/-- Tags in a lost-tag list (R60). -/
def lostTagCapacity : Nat := 8
/-- Samples in a latency FIFO (R105). -/
def latencyCapacity : Nat := 4
/-- Records in the alert outbox (R162). -/
def outboxCapacity : Nat := 32
/-- Frames in the bounce queue (R168). -/
def bounceCapacity : Nat := 16
/-- Frames in the reply queue (R184). -/
def replyCapacity : Nat := 4
/-- Largest payload of a frame (R1). -/
def maxPayload : Nat := 1024
/-- Largest store write count (R208). -/
def maxWriteCount : Nat := 63
/-- Largest value of a 16-bit counter. -/
def max16 : Nat := 65535
/-- Largest value of a 32-bit running total (R102). -/
def max32 : Nat := 4294967295
/-- Reference clock periods in 100 ms, the unit of the claim timer (R203), at the nominal 50 MHz
(00_scope.md, Pins; log entry 7). -/
def claimUnit : Nat := 5000000
/-- Vendor code (R185). -/
def vendorCode : Nat := 0x0B17
/-- Part code (R185). -/
def partCode : Nat := 0x2132
/-- Revision code (R185). -/
def revisionCode : Nat := 0x01

end Sys2Proof.Config
end

