-- ==== Sys2Proof/Machine/State.lean ====
section
/-! DEFINITION. The state of the monitor, block by block (00_scope.md, Block overview), as plain data,
and the machine right after power-on reset. -/

namespace Sys2Proof.Machine

/-- Why a step could stop with a fault. The spec gives the block no fault: every event leaves a next
state, so this type has no constructor (safe: no run ends here). -/
inductive Fault where
  deriving DecidableEq, Repr

/-- Why a step could be refused. -/
inductive Refusal where
  /-- Raised by an arm of `exec` for a command that has no meaning yet (safe: the run ends there).
  No arm does. -/
  | notModelled (mnemonic : String)
  deriving DecidableEq, Repr

/-! ### Frames -/

/-- A frame whose length and check were found good, or that the monitor built (R1). The length field
is the length of `payload`. -/
structure Frame where
  kind : BitVec 4
  cls : TxClass
  slot : Byte
  tag : Tag
  payload : List Byte
  check : Digest
  deriving DecidableEq, Repr

/-- Which kind of frame an arbiter sent last (R17, R18); for the descending arbiter an inserted frame
is the probe request. -/
inductive LastSent where
  | through
  | inserted
  deriving DecidableEq, Repr

/-- The trunk interface (R7, R8, R19). -/
structure Trunk where
  upStage : Option Frame
  downStage : Option Frame
  descBuffer : List Frame
  ascBuffer : List Frame
  upErrors : Nat
  downErrors : Nat
  /-- The partner at UP holds this monitor's UP transmitter (R9). -/
  upHeld : Bool
  /-- The partner at DOWN holds this monitor's DOWN transmitter (R9). -/
  downHeld : Bool
  upSending : Option Frame
  downSending : Option Frame
  ascLast : LastSent
  descLast : LastSent
  endStrap : Bool
  /-- A frame that the UP partner began in STARTING, or while RST_N was low, is still arriving: it is
  discarded uncounted at its end (R6, R19, R200). -/
  upDiscard : Bool
  /-- The same at DOWN. -/
  downDiscard : Bool
  deriving DecidableEq, Repr

/-! ### Time base -/

/-- The MARK enables (R29). -/
structure MarkEnables where
  commit : Bool
  snapshot : Bool
  align : Bool
  deriving DecidableEq, Repr

/-- The time base (table before R21). -/
structure TimeBase where
  divider : Nat
  dividerCount : Nat
  tick : Tick
  windowStart : Tick
  windowCounter : Nat
  activeLength : Nat
  latchedLength : Option Nat
  windowNumber : BitVec 32
  postscale : Nat
  postscaleCount : Nat
  markEnables : MarkEnables
  markSample : Bool
  deriving DecidableEq, Repr

/-! ### Pending table -/

inductive EntryKind where
  | request
  | probe
  deriving DecidableEq, Repr

/-- Entry states (R34): OPEN, OVERDUE, HELD. -/
inductive EntryState where
  | opened
  | overdue
  | held
  deriving DecidableEq, Repr

/-- The key of an entry (R35), which is also how an entry refers to its partner (R34). -/
structure EntryKey where
  slot : SlotIndex
  tag : Tag
  deriving DecidableEq, Repr

/-- One entry of the pending table (R34). -/
structure Entry where
  slot : SlotIndex
  tag : Tag
  cls : TxClass
  kind : EntryKind
  state : EntryState
  arrival : Tick
  deadline : Tick
  loss : Tick
  retries : Nat
  redirected : Bool
  partner : Option EntryKey
  pairWindow : Option Nat
  digest : Option Digest
  twinExpiry : Option Tick
  straggled : Bool
  deriving DecidableEq, Repr

/-! ### Slot records -/

/-- Slot states (R89), in state code order (R175). -/
inductive SlotState where
  | vacant
  | parked
  | probation
  | live
  | suspect
  | draining
  | fenced
  deriving DecidableEq, Repr

inductive FenceGate where
  | immediate
  | boundary
  deriving DecidableEq, Repr

/-- Verdict kinds (R117), in code order (R175). -/
inductive VerdictKind where
  | stall
  | missRun
  | lateRun
  | strayRun
  | diverge
  | straggle
  | probeFail
  deriving DecidableEq, Repr

/-- One value per verdict kind. -/
structure PerKind (α : Type) where
  stall : α
  missRun : α
  lateRun : α
  strayRun : α
  diverge : α
  straggle : α
  probeFail : α
  deriving DecidableEq, Repr

/-- The same value for every verdict kind. -/
def PerKind.all {α : Type} (a : α) : PerKind α := ⟨a, a, a, a, a, a, a⟩

/-- The eleven counters of a slot (R101), in the order of R198. -/
structure Counters where
  arrivals : Nat
  completions : Nat
  lates : Nat
  tardies : Nat
  losts : Nat
  strays : Nat
  divergences : Nat
  straggles : Nat
  bounces : Nat
  redirects : Nat
  absorbed : Nat
  deriving DecidableEq, Repr

/-- All eleven counters 0. -/
def Counters.zero : Counters := ⟨0, 0, 0, 0, 0, 0, 0, 0, 0, 0, 0⟩

/-- A latency sample (R104). -/
structure Sample where
  latency : Nat
  cls : TxClass
  late : Bool
  deriving DecidableEq, Repr

inductive ProbeOutcome where
  | none
  | answeredOk
  | answeredWrong
  | noAnswer
  | cancelled
  deriving DecidableEq, Repr

/-- The configuration fields of a slot record (R86). -/
structure SlotConfig where
  ceiling : Nat
  rampStart : Nat
  rampStep : Nat
  policySet : Fin 4
  gate : FenceGate
  autoRestore : Bool
  divisor : Nat
  standIn : Option SlotIndex
  probeDigest : Option Digest
  autoAdmit : Bool
  twin : Option SlotIndex
  configured : Bool
  deriving DecidableEq, Repr

/-- The defaults of R86. -/
def SlotConfig.default : SlotConfig :=
  { ceiling := 64, rampStart := 4, rampStep := 4, policySet := 0, gate := .immediate,
    autoRestore := false, divisor := 16, standIn := none, probeDigest := none, autoAdmit := false,
    twin := none, configured := false }

/-- One slot record: configuration (R86) and live fields (R88). -/
structure SlotRecord where
  config : SlotConfig
  state : SlotState
  manual : Bool
  verdict : Bool
  fencePending : Bool
  ceiling : Nat
  requestCount : Nat
  probeEntry : Bool
  cleanRun : Nat
  adverse : Bool
  settling : Nat
  window : Counters
  lastWindow : Counters
  totals : Counters
  captureCount : Nat
  latency : List Sample
  overflow : Bool
  sticky : PerKind Bool
  lostTags : List Tag
  pacing : PerKind Nat
  suppressed : PerKind Nat
  quiet : Nat
  sinceProbe : Nat
  lastProbe : ProbeOutcome
  deriving DecidableEq, Repr

/-- The record a configuration gives at power-on or line reset (R114): PARKED when the configured mark
is set, else VACANT; every live field at its value of the table. -/
def SlotRecord.loaded (c : SlotConfig) : SlotRecord :=
  { config := c, state := if c.configured then .parked else .vacant, manual := false,
    verdict := false, fencePending := false, ceiling := c.rampStart, requestCount := 0,
    probeEntry := false, cleanRun := 0, adverse := false, settling := 0, window := .zero,
    lastWindow := .zero, totals := .zero, captureCount := 0, latency := [], overflow := false,
    sticky := .all false, lostTags := [], pacing := .all 0, suppressed := .all 0, quiet := 0,
    sinceProbe := 0, lastProbe := .none }

/-! ### Verdict unit -/

inductive Policy where
  | off
  | report
  | confirm
  | fence
  deriving DecidableEq, Repr

/-- A policy set (R123). -/
structure PolicySet where
  policies : PerKind Policy
  missThreshold : Nat
  lateThreshold : Nat
  strayThreshold : Nat
  confirmWindows : Nat
  probationWindows : Nat
  quietGap : Nat
  deriving DecidableEq, Repr

/-- The defaults of R123. -/
def PolicySet.default : PolicySet :=
  { policies := ⟨.confirm, .confirm, .report, .report, .confirm, .report, .fence⟩,
    missThreshold := 3, lateThreshold := 10, strayThreshold := 5, confirmWindows := 3,
    probationWindows := 5, quietGap := 10 }

/-- The verdict unit's policy sets (R123). -/
structure PolicyTables where
  active : Vector PolicySet 4
  staged : Vector PolicySet 4
  deriving DecidableEq, Repr

/-! ### Probe engine -/

inductive ProbeOrigin where
  | command
  | quiet
  | recovery
  deriving DecidableEq, Repr

/-- The in-flight record (R144). -/
structure InFlight where
  slot : SlotIndex
  addr : Nat
  tag : Tag
  origin : ProbeOrigin
  launch : Tick
  deriving DecidableEq, Repr

/-- Slot address, tag and origin of the last probe to end (R155). -/
structure ProbeIdentity where
  addr : Nat
  tag : Tag
  origin : ProbeOrigin
  deriving DecidableEq, Repr

/-- Latency and digest of an answered probe (R155). -/
structure ProbeAnswer where
  latency : Nat
  digest : Digest
  deriving DecidableEq, Repr

/-- The last-result record (R155). -/
structure LastResult where
  probe : Option ProbeIdentity
  outcome : ProbeOutcome
  answer : Option ProbeAnswer
  fresh : Bool
  deriving DecidableEq, Repr

/-- The probe engine (R144). It is IN_FLIGHT exactly when `inFlight` is present. -/
structure ProbeEngine where
  inFlight : Option InFlight
  pendingFrame : Option Frame
  requests : Vector (Option ProbeOrigin) 32
  pointer : SlotIndex
  seq : BitVec 12
  last : LastResult
  stale : Nat
  marker : BitVec 16
  cls : TxClass
  quietPeriod : Nat
  recoveryPeriod : Nat
  deriving DecidableEq, Repr

/-! ### Report unit -/

/-- The operating modes (R199), in code order (R175). -/
inductive Mode where
  | starting
  | unclaimed
  | watching
  | transparent
  deriving DecidableEq, Repr

inductive ArrivalCause where
  | power
  | line
  | soft
  deriving DecidableEq, Repr

inductive LoadOutcome where
  | good
  | defaulted
  deriving DecidableEq, Repr

/-- SLOT_STATE causes, in code order (R175). -/
inductive SlotCause where
  | command
  | verdict
  | confirmed
  | probationDone
  | restore
  | drained
  | claim
  | release
  | reset
  deriving DecidableEq, Repr

/-- Numbers of slots per state (R171). -/
structure StateCounts where
  vacant : Nat
  parked : Nat
  probation : Nat
  live : Nat
  suspect : Nat
  draining : Nat
  fenced : Nat
  deriving DecidableEq, Repr

/-- An alert record (R160). -/
inductive AlertRecord where
  | arrival (cause : ArrivalCause) (mode : Mode) (chain : ChainAddr) (load : LoadOutcome)
      (revision : Nat)
  | mode (old new : Mode)
  | verdict (addr : Nat) (kind : VerdictKind) (applied : Policy) (after : SlotState) (figure : Nat)
      (partner : Option Nat) (tag : Option Tag) (suppressed : Nat)
  | slotState (addr : Nat) (old new : SlotState) (cause : SlotCause)
  | orphan (addr : Nat) (count : Nat)
  | overflow (lost : Nat)
  | census (windowNumber : BitVec 32) (states : StateCounts) (occupancy oldestAge minLive : Nat)
      (verdicts : Nat)
  deriving DecidableEq, Repr

/-- An outbox record with the chain address its ALR frame was formed with (R161). -/
structure OutboxRecord where
  record : AlertRecord
  chain : ChainAddr
  deriving DecidableEq, Repr

/-- The report unit (first table of chapter 8). -/
structure ReportUnit where
  outbox : List OutboxRecord
  lostCount : Nat
  censusOwed : Bool
  owedVerdicts : Nat
  periodVerdicts : Nat
  bounceQueue : List Frame
  deriving DecidableEq, Repr

/-! ### Management unit -/

/-- How a command copy arrived (R181). -/
inductive Addressing where
  | own
  | group
  | all
  deriving DecidableEq, Repr

/-- The command copy in the command buffer (R181). -/
structure CommandCopy where
  payload : List Byte
  seq : Byte
  arrived : Addressing
  deriving DecidableEq, Repr

/-- A class profile (R190). -/
structure ClassProfile where
  deadline : Nat
  grace : Nat
  twinWindow : Nat
  watched : Bool
  deriving DecidableEq, Repr

/-- The default of classes 0 to 14 (R190). -/
def ClassProfile.default : ClassProfile :=
  { deadline := 20000, grace := 10000, twinWindow := 5000, watched := true }

/-- The default of class 15 (R190). -/
def ClassProfile.default15 : ClassProfile :=
  { deadline := 5000, grace := 0, twinWindow := 5000, watched := true }

/-- The sixteen default profiles (R190). -/
def ClassProfile.defaults : Vector ClassProfile 16 :=
  (Vector.replicate 16 ClassProfile.default).set 15 ClassProfile.default15

inductive SnapshotCause where
  | none
  | command
  | mark
  | census
  deriving DecidableEq, Repr

/-- One snapshot record (R194). -/
structure SnapshotRecord where
  state : SlotState
  requestCount : Nat
  oldestAge : Nat
  lastWindow : Counters
  totals : Counters
  deriving DecidableEq, Repr

/-- The snapshot table (R194). -/
structure SnapshotTable where
  cause : SnapshotCause
  windowNumber : BitVec 32
  tick : Tick
  records : Vector SnapshotRecord 32
  deriving DecidableEq, Repr

/-- The cleared snapshot table (R196). -/
def SnapshotTable.cleared : SnapshotTable :=
  { cause := .none, windowNumber := 0, tick := 0,
    records := Vector.replicate 32
      { state := .vacant, requestCount := 0, oldestAge := 0, lastWindow := .zero, totals := .zero } }

/-- The monitor sticky flags (R186). -/
structure MonitorFlags where
  linkUpErr : Bool
  linkDownErr : Bool
  cmdDropped : Bool
  tableFull : Bool
  outboxLost : Bool
  storeBad : Bool
  deriving DecidableEq, Repr

/-- All six flags clear. -/
def MonitorFlags.clear : MonitorFlags := ⟨false, false, false, false, false, false⟩

/-- The cause of the start under way (R200). -/
inductive StartCause where
  | power
  | line
  deriving DecidableEq, Repr

/-- A running claim timer (R203): the timeout it was started with, in 100 ms, and the reference clock
periods that have passed since. -/
structure ClaimTimer where
  timeout : Nat
  periods : Nat
  deriving DecidableEq, Repr

/-- The management unit (first table of chapter 9) with the claim timer (R203). -/
structure Management where
  chain : ChainAddr
  groups : BitVec 4
  watchBase : Nat
  mode : Mode
  command : Option CommandCopy
  replyQueue : List Frame
  activeProfiles : Vector ClassProfile 16
  stagedProfiles : Vector ClassProfile 16
  snapshot : SnapshotTable
  flags : MonitorFlags
  claimTimeout : Nat
  /-- Stopped (absent) or running. -/
  claimTimer : Option ClaimTimer
  startCause : StartCause
  /-- RST_N is low: the monitor is held in reset, and STARTING begins at the release (R200). The mode is
  STARTING meanwhile: hold, transmitters and arriving frames are treated alike in both. -/
  resetHeld : Bool
  deriving DecidableEq, Repr

/-! ### Configuration store -/

/-- The stored items (R208). -/
structure StoredItems where
  profiles : Vector ClassProfile 16
  policies : Vector PolicySet 4
  slots : Vector SlotConfig 32
  divider : Nat
  windowLength : Nat
  postscale : Nat
  markEnables : MarkEnables
  quietPeriod : Nat
  recoveryPeriod : Nat
  marker : BitVec 16
  probeClass : TxClass
  claimTimeout : Nat
  watchBase : Nat
  groups : BitVec 4
  deriving DecidableEq, Repr

/-- The stored defaults (00_scope.md, Defaults at a glance). -/
def StoredItems.default : StoredItems :=
  { profiles := ClassProfile.defaults, policies := Vector.replicate 4 PolicySet.default,
    slots := Vector.replicate 32 SlotConfig.default, divider := 500, windowLength := 10000,
    postscale := 50, markEnables := ⟨false, false, false⟩, quietPeriod := 20,
    recoveryPeriod := 10, marker := 0xFFFE, probeClass := 15, claimTimeout := 50, watchBase := 0,
    groups := 0 }

inductive StoreOutcome where
  | good
  | defaulted
  | failed
  deriving DecidableEq, Repr

/-- The store image (R202): whether its length is that of a complete image, whether its CRC is good,
and the items it holds. -/
structure StoreImage where
  complete : Bool
  crcGood : Bool
  items : StoredItems
  deriving DecidableEq, Repr

/-- The configuration store (R208). The store state is WRITING exactly while the write buffer is
present. -/
structure ConfigStore where
  image : StoreImage
  writeCount : Nat
  writing : Option StoredItems
  outcome : StoreOutcome
  loadOutcome : LoadOutcome
  deriving DecidableEq, Repr

/-! ### The monitor -/

/-- The whole monitor, with the queue of the commands that wait. -/
structure State where
  trunk : Trunk
  time : TimeBase
  table : List Entry
  slots : Vector SlotRecord 32
  policy : PolicyTables
  engine : ProbeEngine
  report : ReportUnit
  mgmt : Management
  store : ConfigStore
  pending : List Instr
  deriving DecidableEq, Repr

/-- The trunk interface after power-on or line reset (R19); the partners' hold lines and the END
strap come from outside. -/
def Trunk.afterReset (upHeld downHeld endStrap : Bool) : Trunk :=
  { upStage := none, downStage := none, descBuffer := [], ascBuffer := [], upErrors := 0,
    downErrors := 0, upHeld := upHeld, downHeld := downHeld, upSending := none, downSending := none,
    ascLast := .inserted, descLast := .inserted, endStrap := endStrap, upDiscard := false,
    downDiscard := false }

/-- The time base after power-on or line reset with the stored settings `c` (R32). -/
def TimeBase.afterReset (c : StoredItems) (markSample : Bool) : TimeBase :=
  { divider := c.divider, dividerCount := 0, tick := 0, windowStart := 0, windowCounter := 0,
    activeLength := c.windowLength, latchedLength := none, windowNumber := 0,
    postscale := c.postscale, postscaleCount := 0, markEnables := c.markEnables,
    markSample := markSample }

/-- The probe engine after power-on or line reset with the stored settings `c` (R159). -/
def ProbeEngine.afterReset (c : StoredItems) : ProbeEngine :=
  { inFlight := none, pendingFrame := none, requests := Vector.replicate 32 none, pointer := 31,
    seq := 0, last := ⟨none, .none, none, false⟩, stale := 0, marker := c.marker,
    cls := c.probeClass, quietPeriod := c.quietPeriod, recoveryPeriod := c.recoveryPeriod }

/-- The report unit after power-on or line reset (R177). -/
def ReportUnit.afterReset : ReportUnit :=
  { outbox := [], lostCount := 0, censusOwed := false, owedVerdicts := 0, periodVerdicts := 0,
    bounceQueue := [] }

/-- The management unit after power-on or line reset with the stored settings `c` (R193, R196, R197),
RST_N being low or not (R200). -/
def Management.afterReset (c : StoredItems) (cause : StartCause) (rstLow : Bool) : Management :=
  { chain := 0, groups := c.groups, watchBase := c.watchBase, mode := .starting, command := none,
    replyQueue := [], activeProfiles := c.profiles, stagedProfiles := c.profiles,
    snapshot := .cleared, flags := .clear, claimTimeout := c.claimTimeout, claimTimer := none,
    startCause := cause, resetHeld := rstLow }

/-- The machine right after power-on reset (R19, R32, R67, R114, R126, R159, R177, R197, R209), in
STARTING, with the store as it leaves the factory: a blank image and write count 0 (chapter 10).
The stored items stand at their defaults until STARTING loads them (log entry 8); the outcomes of the
store before its first load and the input levels are log entry 9. -/
def State.reset : State :=
  { trunk := Trunk.afterReset false false false
    time := TimeBase.afterReset StoredItems.default false
    table := []
    slots := Vector.replicate 32 (SlotRecord.loaded SlotConfig.default)
    policy := { active := StoredItems.default.policies, staged := StoredItems.default.policies }
    engine := ProbeEngine.afterReset StoredItems.default
    report := ReportUnit.afterReset
    mgmt := Management.afterReset StoredItems.default .power false
    store := { image := { complete := false, crcGood := false, items := StoredItems.default },
               writeCount := 0, writing := none, outcome := .defaulted, loadOutcome := .defaulted }
    pending := [] }

end Sys2Proof.Machine
end

