-- ==== Sys2Proof/Machine/Frame.lean ====
section
/-! DEFINITION. The trunk frame: byte fields, the check CRC, reading and building frames (R1 to R5),
and the codes of R175 and R198. -/

namespace Sys2Proof.Machine

/-! ### Byte fields -/

/-- A byte field. -/
def be8 (n : Nat) : List Byte := [BitVec.ofNat 8 n]

/-- Two bytes, most significant first (R1). -/
def be16 (n : Nat) : List Byte := [BitVec.ofNat 8 (n / 256), BitVec.ofNat 8 n]

/-- Four bytes, most significant first (R1). -/
def be32 (n : Nat) : List Byte := be16 (n / 65536) ++ be16 n

/-- Four bytes, least significant first: the order of the check (R1). -/
def le32 (n : Nat) : List Byte := (be32 n).reverse

/-- The number that bytes sent most significant first spell. -/
def fromBE (bs : List Byte) : Nat := bs.foldl (fun n b => n * 256 + b.toNat) 0

/-! ### The check CRC (R3) -/

/-- One bit enters the CRC register, polynomial 1EDC6F41h. -/
def crcBit (reg : BitVec 32) (b : Bool) : BitVec 32 :=
  if (reg.msb ^^ b) then (reg <<< 1) ^^^ 0x1EDC6F41#32 else reg <<< 1

/-- The bits of a byte, least significant first. -/
def bitsOfByte (x : Byte) : List Bool :=
  [x.getLsbD 0, x.getLsbD 1, x.getLsbD 2, x.getLsbD 3,
   x.getLsbD 4, x.getLsbD 5, x.getLsbD 6, x.getLsbD 7]

/-- A byte enters the register least significant bit first. -/
def crcByte (reg : BitVec 32) (x : Byte) : BitVec 32 := (bitsOfByte x).foldl crcBit reg

/-- The `n` low bits of `w`, in reversed order, on top of `acc`. -/
def reverseBitsOnto (w : BitVec 32) : Nat → BitVec 32 → BitVec 32
  | 0, acc => acc
  | n + 1, acc => reverseBitsOnto (w >>> 1) n ((acc <<< 1) ||| (w &&& 1#32))

/-- The register bit-reversed. -/
def reverseBits (w : BitVec 32) : BitVec 32 := reverseBitsOnto w 32 0#32

/-- The CRC of R3 over a sequence of bytes. -/
def crc (bs : List Byte) : Digest := ~~~ reverseBits (bs.foldl crcByte 0xFFFFFFFF#32)

/-! ### Frames -/

/-- The frame kinds of R1. -/
inductive FrameKind where
  | req
  | rsp
  | bnc
  | mgt
  | mrp
  | alr
  | cen
  | unknown
  deriving DecidableEq, Repr

/-- The kind field's codes (R1). -/
def frameKind (k : BitVec 4) : FrameKind :=
  if k = 1 then .req else if k = 2 then .rsp else if k = 3 then .bnc else if k = 4 then .mgt
  else if k = 5 then .mrp else if k = 6 then .alr else if k = 7 then .cen else .unknown

/-- The header and payload of a frame: what its check covers (R1). -/
def Frame.body (f : Frame) : List Byte :=
  [f.kind ++ f.cls, f.slot] ++ be32 f.tag.toNat ++ be16 f.payload.length ++ f.payload

/-- A frame as it is sent (R1). -/
def Frame.bytes (f : Frame) : List Byte := f.body ++ le32 f.check.toNat

/-- The same frame with its check computed (R3, R13). -/
def Frame.withCheck (f : Frame) : Frame := { f with check := crc f.body }

/-- A frame the monitor originates, check computed (R3). -/
def mkFrame (kind : BitVec 4) (cls : TxClass) (slot : Byte) (tag : Tag) (payload : List Byte) : Frame :=
  Frame.withCheck { kind := kind, cls := cls, slot := slot, tag := tag, payload := payload, check := 0 }

/-- The bytes from offset `at_`, `n` of them. -/
def slice (bs : List Byte) (at_ n : Nat) : List Byte := (bs.drop at_).take n

/-- The frame that received bytes spell when they form a good frame: at least 12 bytes, a length field
of at most 1024 that equals the number of payload bytes, and a good check (R5). -/
def parseFrame (bs : List Byte) : Option Frame :=
  let len := fromBE (slice bs 6 2)
  if bs.length < 12 then none
  else if Config.maxPayload < len then none
  else if bs.length - 12 ≠ len then none
  else if crc (bs.take (8 + len)) ≠ BitVec.ofNat 32 (fromBE (bs.drop (8 + len)).reverse) then none
  else
    let b0 := bs.headD 0
    some { kind := b0.extractLsb' 4 4, cls := b0.extractLsb' 0 4,
           slot := (bs.drop 1).headD 0, tag := BitVec.ofNat 32 (fromBE (slice bs 2 4)),
           payload := slice bs 8 len, check := crc (bs.take (8 + len)) }

/-! ### Codes (R175, R198) -/

/-- Slot state codes (R175). -/
def SlotState.code : SlotState → Nat
  | .vacant => 0 | .parked => 1 | .probation => 2 | .live => 3 | .suspect => 4 | .draining => 5
  | .fenced => 6

/-- Mode codes (R175). -/
def Mode.code : Mode → Nat
  | .starting => 0 | .unclaimed => 1 | .watching => 2 | .transparent => 3

/-- Verdict kind codes (R175). -/
def VerdictKind.code : VerdictKind → Nat
  | .stall => 0 | .missRun => 1 | .lateRun => 2 | .strayRun => 3 | .diverge => 4 | .straggle => 5
  | .probeFail => 6

/-- Policy codes (R175), OFF as code 0 (R198). -/
def Policy.code : Policy → Nat
  | .off => 0 | .report => 1 | .confirm => 2 | .fence => 3

/-- SLOT_STATE cause codes (R175). -/
def SlotCause.code : SlotCause → Nat
  | .command => 0 | .verdict => 1 | .confirmed => 2 | .probationDone => 3 | .restore => 4
  | .drained => 5 | .claim => 6 | .release => 7 | .reset => 8

/-- ARRIVAL cause codes (R175). -/
def ArrivalCause.code : ArrivalCause → Nat
  | .power => 0 | .line => 1 | .soft => 2

/-- Load outcome codes (R175). -/
def LoadOutcome.code : LoadOutcome → Nat
  | .good => 0 | .defaulted => 1

/-- Store outcome codes (R198). -/
def StoreOutcome.code : StoreOutcome → Nat
  | .good => 0 | .defaulted => 1 | .failed => 2

/-- Snapshot cause codes (R198). -/
def SnapshotCause.code : SnapshotCause → Nat
  | .none => 0 | .command => 1 | .mark => 2 | .census => 3

/-- Probe origin codes (R198). -/
def ProbeOrigin.code : ProbeOrigin → Nat
  | .command => 0 | .quiet => 1 | .recovery => 2

/-- Probe outcome codes (R198). -/
def ProbeOutcome.code : ProbeOutcome → Nat
  | .none => 0 | .answeredOk => 1 | .answeredWrong => 2 | .noAnswer => 3 | .cancelled => 4

/-- Bounce reasons (R169). -/
inductive BounceReason where
  | ceiling
  | tableFull
  | parked
  | draining
  | fenced
  | standInRefused
  | retryLimit
  deriving DecidableEq, Repr

/-- Bounce reason codes (R175). -/
def BounceReason.code : BounceReason → Nat
  | .ceiling => 1 | .tableFull => 2 | .parked => 3 | .draining => 4 | .fenced => 5
  | .standInRefused => 6 | .retryLimit => 7

/-- A two-valued field: 0 for the first value named, 1 for the second (R198). -/
def boolCode (b : Bool) : Nat := if b then 1 else 0

/-- An optional field of a reply: its presence byte, then its value, 0 when absent (R198). -/
def optionalField (width : Nat → List Byte) (value : Option Nat) : List Byte :=
  be8 (boolCode value.isSome) ++ width (value.getD 0)

/-- The seven counts, one byte each (R175). -/
def StateCounts.bytes1 (c : StateCounts) : List Byte :=
  be8 c.vacant ++ be8 c.parked ++ be8 c.probation ++ be8 c.live ++ be8 c.suspect ++ be8 c.draining
    ++ be8 c.fenced

/-- The seven counts, two bytes each (R176). -/
def StateCounts.bytes2 (c : StateCounts) : List Byte :=
  be16 c.vacant ++ be16 c.parked ++ be16 c.probation ++ be16 c.live ++ be16 c.suspect
    ++ be16 c.draining ++ be16 c.fenced

/-- The payload of an ALR frame (R175). -/
def AlertRecord.payload : AlertRecord → List Byte
  | .arrival cause m chain load revision =>
      be8 1 ++ be8 cause.code ++ be8 m.code ++ be8 chain.toNat ++ be8 load.code ++ be8 revision
  | .mode old new => be8 2 ++ be8 old.code ++ be8 new.code
  | .verdict addr kind applied after figure partner tag suppressed =>
      be8 3 ++ be8 addr ++ be8 kind.code ++ be8 applied.code ++ be8 after.code ++ be16 figure
        ++ be8 (boolCode partner.isSome + 2 * boolCode tag.isSome) ++ be8 (partner.getD 0)
        ++ be32 (tag.getD 0).toNat ++ be8 suppressed
  | .slotState addr old new cause =>
      be8 4 ++ be8 addr ++ be8 old.code ++ be8 new.code ++ be8 cause.code
  | .orphan addr count => be8 5 ++ be8 addr ++ be16 count
  | .overflow lost => be8 6 ++ be16 lost
  | .census windowNumber states occupancy oldestAge minLive verdicts =>
      be8 7 ++ be32 windowNumber.toNat ++ states.bytes1 ++ be16 occupancy ++ be16 oldestAge
        ++ be16 minLive ++ be16 verdicts

/-- The ALR frame of an outbox record: class 0, slot field the chain address at the moment of placing,
tag 0 (R161). -/
def OutboxRecord.frame (r : OutboxRecord) : Frame :=
  mkFrame 6 0 (r.chain.zeroExtend 8) 0 r.record.payload

end Sys2Proof.Machine
end

