-- ==== Sys2Proof/Machine/Flags.lean ====
section
/-! DEFINITION. The monitor sticky flags (R186), values kept per verdict kind, and the eleven slot
counters with their credits (R101, R102). -/

namespace Sys2Proof.Machine

/-- The value of a kind. -/
def PerKind.get {α : Type} (p : PerKind α) : VerdictKind → α
  | .stall => p.stall
  | .missRun => p.missRun
  | .lateRun => p.lateRun
  | .strayRun => p.strayRun
  | .diverge => p.diverge
  | .straggle => p.straggle
  | .probeFail => p.probeFail

/-- The value of one kind replaced. -/
def PerKind.set {α : Type} (p : PerKind α) (k : VerdictKind) (a : α) : PerKind α :=
  match k with
  | .stall => { p with stall := a }
  | .missRun => { p with missRun := a }
  | .lateRun => { p with lateRun := a }
  | .strayRun => { p with strayRun := a }
  | .diverge => { p with diverge := a }
  | .straggle => { p with straggle := a }
  | .probeFail => { p with probeFail := a }

/-- Every value mapped. -/
def PerKind.map {α β : Type} (f : α → β) (p : PerKind α) : PerKind β :=
  ⟨f p.stall, f p.missRun, f p.lateRun, f p.strayRun, f p.diverge, f p.straggle, f p.probeFail⟩

/-- Seven flags in one byte, bit 0 the first kind in code order (R198). -/
def PerKind.flagByte (p : PerKind Bool) : Nat :=
  boolCode p.stall + 2 * boolCode p.missRun + 4 * boolCode p.lateRun + 8 * boolCode p.strayRun
    + 16 * boolCode p.diverge + 32 * boolCode p.straggle + 64 * boolCode p.probeFail

/-- Names of the eleven counters (R101). -/
inductive CounterName where
  | arrivals
  | completions
  | lates
  | tardies
  | losts
  | strays
  | divergences
  | straggles
  | bounces
  | redirects
  | absorbed
  deriving DecidableEq, Repr

/-- One counter. -/
def Counters.get (c : Counters) : CounterName → Nat
  | .arrivals => c.arrivals
  | .completions => c.completions
  | .lates => c.lates
  | .tardies => c.tardies
  | .losts => c.losts
  | .strays => c.strays
  | .divergences => c.divergences
  | .straggles => c.straggles
  | .bounces => c.bounces
  | .redirects => c.redirects
  | .absorbed => c.absorbed

/-- One counter up by one, saturating at `cap` (R102). -/
def Counters.bump (cap : Nat) (c : Counters) : CounterName → Counters
  | .arrivals => { c with arrivals := satAdd cap c.arrivals 1 }
  | .completions => { c with completions := satAdd cap c.completions 1 }
  | .lates => { c with lates := satAdd cap c.lates 1 }
  | .tardies => { c with tardies := satAdd cap c.tardies 1 }
  | .losts => { c with losts := satAdd cap c.losts 1 }
  | .strays => { c with strays := satAdd cap c.strays 1 }
  | .divergences => { c with divergences := satAdd cap c.divergences 1 }
  | .straggles => { c with straggles := satAdd cap c.straggles 1 }
  | .bounces => { c with bounces := satAdd cap c.bounces 1 }
  | .redirects => { c with redirects := satAdd cap c.redirects 1 }
  | .absorbed => { c with absorbed := satAdd cap c.absorbed 1 }

/-- The counters in the order of R198, two bytes each (window counters). -/
def Counters.bytes2 (c : Counters) : List Byte :=
  be16 c.arrivals ++ be16 c.completions ++ be16 c.lates ++ be16 c.tardies ++ be16 c.losts
    ++ be16 c.strays ++ be16 c.divergences ++ be16 c.straggles ++ be16 c.bounces ++ be16 c.redirects
    ++ be16 c.absorbed

/-- The counters in the order of R198, four bytes each (running totals). -/
def Counters.bytes4 (c : Counters) : List Byte :=
  be32 c.arrivals ++ be32 c.completions ++ be32 c.lates ++ be32 c.tardies ++ be32 c.losts
    ++ be32 c.strays ++ be32 c.divergences ++ be32 c.straggles ++ be32 c.bounces ++ be32 c.redirects
    ++ be32 c.absorbed

/-- A credit to a slot's counter: the window counter (16 bits) and the running total (32 bits) of the
same name each up by one, each saturating (R101, R102). -/
def SlotRecord.credit (r : SlotRecord) (c : CounterName) : SlotRecord :=
  { r with window := r.window.bump Config.max16 c, totals := r.totals.bump Config.max32 c }

/-- The monitor sticky flags rewritten (R186). -/
def State.setFlags (s : State) (f : MonitorFlags → MonitorFlags) : State :=
  { s with mgmt := { s.mgmt with flags := f s.mgmt.flags } }

/-- CMD_DROPPED set (R14, R15, R182). -/
def State.setCmdDropped (s : State) : State := s.setFlags fun f => { f with cmdDropped := true }

/-- TABLE_FULL set (R45, R43). -/
def State.setTableFull (s : State) : State := s.setFlags fun f => { f with tableFull := true }

/-- The six flags in one byte, in the bit order of R198. -/
def MonitorFlags.byte (f : MonitorFlags) : Nat :=
  boolCode f.linkUpErr + 2 * boolCode f.linkDownErr + 4 * boolCode f.cmdDropped
    + 8 * boolCode f.tableFull + 16 * boolCode f.outboxLost + 32 * boolCode f.storeBad

end Sys2Proof.Machine
end

