-- ==== Sys2Proof/Machine/Ops.lean ====
section
/-! DEFINITION. The shared operations over slot records, the alert outbox and the pending table. -/

namespace Sys2Proof.Machine

/-! ### Slots -/

/-- The 32 slot indexes, ascending. -/
def allSlots : List SlotIndex :=
  [0, 1, 2, 3, 4, 5, 6, 7, 8, 9, 10, 11, 12, 13, 14, 15] ++
  [16, 17, 18, 19, 20, 21, 22, 23, 24, 25, 26, 27, 28, 29, 30, 31]

/-- The record of a slot. -/
def State.slot (s : State) (i : SlotIndex) : SlotRecord := s.slots[i]

/-- The record of a slot replaced. -/
def State.setSlot (s : State) (i : SlotIndex) (r : SlotRecord) : State :=
  { s with slots := s.slots.set i r }

/-- The record of a slot changed. -/
def State.updSlot (s : State) (i : SlotIndex) (f : SlotRecord → SlotRecord) : State :=
  s.setSlot i (f (s.slot i))

/-- The mode (R199). -/
def State.mode (s : State) : Mode := s.mgmt.mode

/-- PROBATION, LIVE and SUSPECT admit new requests (00_scope.md, Terms). -/
def SlotState.accepting : SlotState → Bool
  | .probation | .live | .suspect => true
  | .vacant | .parked | .draining | .fenced => false

/-- The accepting states, DRAINING and FENCED are watched (R89). -/
def SlotState.watched : SlotState → Bool
  | .vacant | .parked => false
  | .probation | .live | .suspect | .draining | .fenced => true

/-- The slot address of an index: watch base plus index. -/
def State.slotAddr (s : State) (i : SlotIndex) : Nat := s.mgmt.watchBase + i.val

/-- The slot index of an address in the watch range (R11). -/
def State.slotIndex? (s : State) (addr : Nat) : Option SlotIndex :=
  if h : s.mgmt.watchBase ≤ addr ∧ addr - s.mgmt.watchBase < 32 then
    some ⟨addr - s.mgmt.watchBase, h.2⟩
  else none

/-- The active policy set a slot selects (R123). -/
def State.policySet (s : State) (i : SlotIndex) : PolicySet :=
  s.policy.active[(s.slot i).config.policySet]

/-- The active profile of a class (R190). -/
def State.profile (s : State) (c : TxClass) : ClassProfile :=
  s.mgmt.activeProfiles[c.toNat]'(c.isLt)

/-- A credit to a counter of a slot (R101). -/
def State.credit (s : State) (i : SlotIndex) (c : CounterName) : State :=
  s.updSlot i fun r => r.credit c

/-! ### Ticks (R24) -/

/-- The age of a record that arrived at `x`, modulo 2^32. -/
def tickAge (now x : Tick) : Nat := (now - x).toNat

/-- An age carried in a 16-bit field. -/
def tickAge16 (now x : Tick) : Nat := min Config.max16 (tickAge now x)

/-- Tick `x` lies before tick `y`: (y - x) mod 2^32 lies from 1 to 2^31 - 1. -/
def tickBefore (x y : Tick) : Bool :=
  decide (1 ≤ (y - x).toNat) && decide ((y - x).toNat ≤ 2147483647)

/-! ### Alerts (R161 to R163) -/

/-- A record handed to the report unit: it joins the outbox's tail with the present chain address
(R162), or, the outbox full, is lost and counted, and OUTBOX_LOST is set (R163). -/
def State.queueAlert (s : State) (r : AlertRecord) : State :=
  if s.report.outbox.length < Config.outboxCapacity then
    { s with report := { s.report with outbox := s.report.outbox ++ [⟨r, s.mgmt.chain⟩] } }
  else
    { s with
      report := { s.report with lostCount := satAdd Config.max16 s.report.lostCount 1 }
      mgmt := { s.mgmt with flags := { s.mgmt.flags with outboxLost := true } } }

/-- A change of slot state with its SLOT_STATE alert (R90). -/
def State.changeState (s : State) (i : SlotIndex) (new : SlotState) (cause : SlotCause) : State :=
  (s.updSlot i fun r => { r with state := new }).queueAlert
    (.slotState (s.slotAddr i) (s.slot i).state new cause)

/-- A change of mode with its MODE alert (R199). -/
def State.changeMode (s : State) (new : Mode) : State :=
  { s with mgmt := { s.mgmt with mode := new } }.queueAlert (.mode s.mgmt.mode new)

/-- The record fields that every entry into PROBATION sets (R91). -/
def SlotRecord.toProbation (r : SlotRecord) : SlotRecord :=
  { r with
    state := .probation, ceiling := r.config.rampStart, cleanRun := 0, adverse := false,
    settling := 2, manual := false, verdict := false, fencePending := false, quiet := 0,
    sinceProbe := 0 }

/-- Entry into PROBATION with its alert (R90, R91). -/
def State.enterProbation (s : State) (i : SlotIndex) (cause : SlotCause) : State :=
  (s.updSlot i SlotRecord.toProbation).queueAlert
    (.slotState (s.slotAddr i) (s.slot i).state .probation cause)

/-! ### The pending table -/

/-- The key of an entry (R35). -/
def Entry.key (e : Entry) : EntryKey := ⟨e.slot, e.tag⟩

/-- The entry of a slot with a tag (R35). -/
def State.findEntry (s : State) (i : SlotIndex) (tag : Tag) : Option Entry :=
  s.table.find? fun e => decide (e.key = ⟨i, tag⟩)

/-- A slot's age order: its REQUEST entries in the order of their creation, oldest first (R36). -/
def State.ageOrder (s : State) (i : SlotIndex) : List Entry :=
  s.table.filter fun e => decide (e.slot = i) && decide (e.kind = .request)

/-- A slot's oldest age (R36). -/
def State.oldestAge (s : State) (i : SlotIndex) : Nat :=
  match (s.ageOrder i).head? with
  | none => 0
  | some e => tickAge16 s.time.tick e.arrival

/-- The table occupancy (R35). -/
def State.occupancy (s : State) : Nat := s.table.length

/-- The table has a free place (R35). -/
def State.tableHasRoom (s : State) : Bool := decide (s.table.length < Config.tableCapacity)

/-- An entry changed in place. -/
def State.updEntry (s : State) (k : EntryKey) (f : Entry → Entry) : State :=
  { s with table := s.table.map fun e => if e.key = k then f e else e }

/-- The slot holds no entry of either kind (R37). -/
def SlotRecord.noEntry (r : SlotRecord) : Bool := decide (r.requestCount = 0) && !r.probeEntry

/-- Becoming PARKED: the state with an empty lost-tag list (R60). -/
def SlotRecord.toParked (r : SlotRecord) : SlotRecord := { r with state := .parked, lostTags := [] }

/-- A change to PARKED with its alert (R90). -/
def State.enterParked (s : State) (i : SlotIndex) (cause : SlotCause) : State :=
  (s.updSlot i SlotRecord.toParked).queueAlert
    (.slotState (s.slotAddr i) (s.slot i).state .parked cause)

/-- A DRAINING slot with no entry and no fence pending becomes PARKED with cause DRAINED (R95). -/
def State.settleDrain (s : State) (i : SlotIndex) : State :=
  if (s.slot i).state = .draining ∧ (s.slot i).noEntry = true ∧ (s.slot i).fencePending = false then
    s.enterParked i .drained
  else s

/-- The slot record's share of a creation (R37). -/
def SlotRecord.addEntry (r : SlotRecord) : EntryKind → SlotRecord
  | .request => { r with requestCount := r.requestCount + 1 }
  | .probe => { r with probeEntry := true }

/-- The slot record's share of a removal (R37, R61). -/
def SlotRecord.dropEntry (r : SlotRecord) : EntryKind → SlotRecord
  | .request => { r with requestCount := r.requestCount - 1 }
  | .probe => { r with probeEntry := false }

/-- An entry joins the table at the end of the order of creation (R36, R37). -/
def State.addEntry (s : State) (e : Entry) : State :=
  { s with table := s.table ++ [e] }.updSlot e.slot fun r => r.addEntry e.kind

/-- The removal of an entry (R61): it leaves the table and with it its timed events, the slot's count
or flag changes, and a DRAINING slot left with no entry is PARKED (R95). What becomes of its partner
is the cause's business (`releasePartner`, R82, R83). -/
def State.removeEntry (s : State) (e : Entry) : State :=
  ({ s with table := s.table.filter fun x => !decide (x.key = e.key) }.updSlot e.slot
    fun r => r.dropEntry e.kind).settleDrain e.slot

/-- An entry loses its partner, and with it the pair's twin window (R34, R75). -/
def Entry.unpair (e : Entry) : Entry := { e with partner := none, pairWindow := none }

/-- What the loss or the orphaning of entry `e` does to its partner (R82, R83): a HELD partner is
removed COMPLETED without comparison, an OPEN or OVERDUE partner stays, unpaired. -/
def State.releasePartner (s : State) (e : Entry) : State :=
  match e.partner with
  | none => s
  | some k =>
    match s.findEntry k.slot k.tag with
    | none => s
    | some p => if p.state = .held then s.removeEntry p else s.updEntry k Entry.unpair

/-- One entry orphaned (R63, R83). -/
def State.orphanEntry (s : State) (e : Entry) : State := (s.releasePartner e).removeEntry e

/-- Every REQUEST entry of a slot orphaned, oldest first (R63). -/
def State.orphanSlot (s : State) (i : SlotIndex) : State :=
  (s.ageOrder i).foldl State.orphanEntry s

/-- A tag joins a lost-tag list as its newest: from its old place when it is in the list, else
dropping the oldest of a full list (R60). -/
def pushLostTag (l : List Tag) (t : Tag) : List Tag :=
  if t ∈ l then l.erase t ++ [t]
  else if l.length < Config.lostTagCapacity then l ++ [t]
  else l.drop 1 ++ [t]

/-- The whole table emptied by RELEASE or soft reset (R65): every entry, count and flag, and every
lost-tag list; no alert and no counter. -/
def SlotRecord.clearEntries (r : SlotRecord) : SlotRecord :=
  { r with requestCount := 0, probeEntry := false, lostTags := [] }

/-- Every slot record changed. -/
def State.updAllSlots (s : State) (f : SlotRecord → SlotRecord) : State :=
  { s with slots := s.slots.map f }

/-- The table emptied (R65). -/
def State.emptyTable (s : State) : State :=
  { s with table := [] }.updAllSlots SlotRecord.clearEntries

end Sys2Proof.Machine
end

