-- ==== Sys2Proof/Machine/Verdict.lean ====
section
/-! DEFINITION. Verdicts and fencing (chapter 6): raising a verdict, fence sources, entry into FENCED,
and the pacing of VERDICT alerts (R166). -/

namespace Sys2Proof.Machine

/-- Entry into FENCED (R139): pending cleared and the state FENCED; the slot's REQUEST entries
orphaned; windows-since-probe 0; the ORPHAN alert when the count is nonzero, then the SLOT_STATE alert
with cause VERDICT when the VERDICT source is set, else COMMAND. -/
def State.enterFenced (s : State) (i : SlotIndex) : State :=
  let old := (s.slot i).state
  let cause : SlotCause := if (s.slot i).verdict then .verdict else .command
  let s1 := s.updSlot i fun r => { r with fencePending := false, state := .fenced }
  let count := (s1.ageOrder i).length
  let s2 := (s1.orphanSlot i).updSlot i fun r => { r with sinceProbe := 0 }
  let s3 := if count = 0 then s2 else s2.queueAlert (.orphan (s2.slotAddr i) count)
  s3.queueAlert (.slotState (s3.slotAddr i) old .fenced cause)

/-- The effect of the fence gate when a source is set (R134): on a slot in an accepting state or
DRAINING, gate IMMEDIATE fences at once and gate BOUNDARY makes the fence pending; on a FENCED slot
only the source changes. -/
def State.gateEffect (s : State) (i : SlotIndex) : State :=
  if (s.slot i).state.accepting = true ∨ (s.slot i).state = .draining then
    match (s.slot i).config.gate with
    | .immediate => s.enterFenced i
    | .boundary => s.updSlot i fun r => { r with fencePending := true }
  else s

/-- The MANUAL source set, with its gate effect (R136). -/
def State.setManual (s : State) (i : SlotIndex) : State :=
  (s.updSlot i fun r => { r with manual := true }).gateEffect i

/-- The VERDICT source set, with its gate effect (R127, R134). With the MANUAL source it is the row of R138 on
FENCE and a verdict acting as "VERDICT set": both sources and one fence entry in either order, also on a slot
that the FENCE has fenced, where only the source changes. Which verdicts act so is `verdictAction`. -/
def State.setVerdict (s : State) (i : SlotIndex) : State :=
  (s.updSlot i fun r => { r with verdict := true }).gateEffect i

/-- What a raised verdict does to its slot (R127). -/
inductive VerdictAction where
  | report
  | suspect
  | setVerdict
  deriving DecidableEq, Repr

/-- The table of R127. A VACANT slot, which no verdict reaches, is treated as a PARKED one
(log entry 18). On a FENCED slot every verdict is a report (R127, R132, R158), so none acts there as the
"VERDICT set" of R138, also where a FENCE under gate IMMEDIATE has just fenced it (log entry 31). -/
def verdictAction (st : SlotState) (p : Policy) : VerdictAction :=
  match st, p with
  | .live, .confirm => .suspect
  | .live, .fence => .setVerdict
  | .suspect, .confirm => .setVerdict
  | .suspect, .fence => .setVerdict
  | .probation, .confirm => .setVerdict
  | .probation, .fence => .setVerdict
  | _, _ => .report

/-- The slot state after step 4 of R118, which the VERDICT alert carries. -/
def stateAfterVerdict (r : SlotRecord) (a : VerdictAction) : SlotState :=
  match a with
  | .report => r.state
  | .suspect => .suspect
  | .setVerdict =>
    match r.config.gate with
    | .immediate => .fenced
    | .boundary => r.state

/-- The policy applied, as the alert carries it (R118): REPORT in the states where every verdict acts
as REPORT (R131, R132), else the policy read. -/
def policyApplied (st : SlotState) (p : Policy) : Policy := if st.accepting then p else .report

/-- A VERDICT record built and submitted to pacing (R166): passed with the suppressed count, the hold
taking the quiet gap, or suppressed and counted. -/
def State.submitVerdict (s : State) (i : SlotIndex) (k : VerdictKind) (applied : Policy)
    (after : SlotState) (figure : Nat) (partner : Option Nat) (tag : Option Tag) : State :=
  let r := s.slot i
  if r.pacing.get k = 0 then
    (s.setSlot i { r with pacing := r.pacing.set k (s.policySet i).quietGap,
                          suppressed := r.suppressed.set k 0 }).queueAlert
      (.verdict (s.slotAddr i) k applied after figure partner tag (r.suppressed.get k))
  else s.setSlot i { r with suppressed := r.suppressed.set k (satAdd 255 (r.suppressed.get k) 1) }

/-- The change a raised verdict makes to its slot (R127, R128, R134). -/
def State.applyVerdict (s : State) (i : SlotIndex) (a : VerdictAction) : State :=
  match a with
  | .report => s
  | .suspect => (s.updSlot i fun r => { r with cleanRun := 0 }).changeState i .suspect .verdict
  | .setVerdict => s.setVerdict i

/-- The sticky flag, and the adverse flag under CONFIRM and FENCE (R118, steps 1 and 2). -/
def SlotRecord.markVerdict (r : SlotRecord) (k : VerdictKind) (p : Policy) : SlotRecord :=
  { r with sticky := r.sticky.set k true,
           adverse := r.adverse || decide (p = .confirm) || decide (p = .fence) }

/-- One more verdict in the census period (R118, step 3; R170). -/
def State.countVerdict (s : State) : State :=
  { s with report := { s.report with
      periodVerdicts := satAdd Config.max16 s.report.periodVerdicts 1 } }

/-- A verdict condition found against a slot (R118). Under policy OFF nothing follows. Otherwise the
verdict is raised: flags, count, action and alerts, the VERDICT alert queued before those of the
action. Figures saturate at 65535 (R117). -/
def State.raiseVerdict (s : State) (i : SlotIndex) (k : VerdictKind) (figure : Nat)
    (partner : Option Nat) (tag : Option Tag) : State :=
  let p := (s.policySet i).policies.get k
  if p = .off then s
  else
    let r := s.slot i
    let a := verdictAction r.state p
    let s1 := (s.updSlot i fun r => r.markVerdict k p).countVerdict
    let s2 := s1.submitVerdict i k (policyApplied r.state p) (stateAfterVerdict r a)
      (min Config.max16 figure) partner tag
    s2.applyVerdict i a

end Sys2Proof.Machine
end

