-- ==== Sys2Proof/Machine/Probe.lean ====
section
/-! DEFINITION. The probe engine (chapter 7): tags, launch, ending, service and answers. -/

namespace Sys2Proof.Machine

/-- The engine is IDLE (R144). -/
def ProbeEngine.idle (e : ProbeEngine) : Bool := e.inFlight.isNone

/-- The probe tag: marker, chain address, sequence number (R145). -/
def probeTag (marker : BitVec 16) (chain : ChainAddr) (seq : BitVec 12) : Tag := marker ++ chain ++ seq

/-- The probe marker part of a tag (R40). -/
def tagMarker (t : Tag) : BitVec 16 := t.extractLsb' 16 16

/-- The chain address part of a probe tag (R145). -/
def tagChain (t : Tag) : ChainAddr := t.extractLsb' 12 4

/-- The probe request of a slot: the origin waiting in the set, if any (R149). -/
def State.request? (s : State) (i : SlotIndex) : Option ProbeOrigin := s.engine.requests[i]

/-- A slot's place in the request set rewritten. -/
def State.setRequest (s : State) (i : SlotIndex) (o : Option ProbeOrigin) : State :=
  { s with engine := { s.engine with requests := s.engine.requests.set i o } }

/-- A quiet or recovery request joins the set, unless the slot already has one (R149). -/
def State.joinRequest (s : State) (i : SlotIndex) (o : ProbeOrigin) : State :=
  match s.request? i with
  | none => s.setRequest i (some o)
  | some _ => s

/-- How many requests the set holds (R149). -/
def State.requestCount (s : State) : Nat :=
  (allSlots.filter fun i => (s.request? i).isSome).length

/-- The PROBE entry of a launch (R66, R147). -/
def probeEntry (s : State) (i : SlotIndex) (tag : Tag) : Entry :=
  let deadline := s.time.tick + BitVec.ofNat 32 (s.profile s.engine.cls).deadline
  { slot := i, tag := tag, cls := s.engine.cls, kind := .probe, state := .opened,
    arrival := s.time.tick, deadline := deadline, loss := deadline, retries := 0,
    redirected := false, partner := none, pairWindow := none, digest := none, twinExpiry := none,
    straggled := false }

/-- The probe tag with a sequence number, of the marker and the chain address as they stand (R145). -/
def State.tagOf (s : State) (q : BitVec 12) : Tag := probeTag s.engine.marker s.mgmt.chain q

/-- The first of `n` sequence numbers from `q` whose tag is no key of slot `i` in the table, else the
number after them. -/
def State.freeSeq (s : State) (i : SlotIndex) : Nat → BitVec 12 → BitVec 12
  | 0, q => q
  | n + 1, q => if (s.findEntry i (s.tagOf q)).isNone then q else s.freeSeq i n (q + 1)

/-- The sequence number a launch to slot `i` takes (R145): the one that stands, passing over the numbers
whose tags are keys of the slot's entries, for no other entry shares a probe's key (R35, R66; log
entry 28). A table with room has fewer entries than there are numbers. -/
def State.launchSeq (s : State) (i : SlotIndex) : BitVec 12 :=
  s.freeSeq i Config.tableCapacity s.engine.seq

/-- The tag of a launch to slot `i` (R145). -/
def State.launchTag (s : State) (i : SlotIndex) : Tag := s.tagOf (s.launchSeq i)

/-- A launch (R147): tag and sequence number, PROBE entry, in-flight record, the slot's request
leaving the set, the service pointer, the probe request frame. -/
def State.launch (s : State) (i : SlotIndex) (origin : ProbeOrigin) : State :=
  let tag := s.launchTag i
  let s1 := s.addEntry (probeEntry s i tag)
  { s1 with engine := { s1.engine with
      seq := s.launchSeq i + 1
      inFlight := some ⟨i, s.slotAddr i, tag, origin, s.time.tick⟩
      requests := s.engine.requests.set i none
      pointer := i
      pendingFrame := some (mkFrame 1 s.engine.cls (BitVec.ofNat 8 (s.slotAddr i)) tag []) } }

/-- The steps of R154 but the last: the frame withdrawn, the last result and the slot's last outcome
written, the PROBE entry removed, the engine IDLE. -/
def State.closeProbe (s : State) (p : InFlight) (outcome : ProbeOutcome)
    (answer : Option ProbeAnswer) : State :=
  let s1 := { s with engine := { s.engine with
    pendingFrame := none
    last := ⟨some ⟨p.addr, p.tag, p.origin⟩, outcome, answer, true⟩ } }
  let s2 := s1.updSlot p.slot fun r => { r with lastProbe := outcome }
  let s3 := match s2.findEntry p.slot p.tag with
    | none => s2
    | some e => s2.removeEntry e
  { s3 with engine := { s3.engine with inFlight := none } }

/-- The action of an outcome on the slot as the ending leaves it (R154, step 5). -/
def State.probeOutcome (s : State) (p : InFlight) (outcome : ProbeOutcome) : State :=
  match outcome with
  | .answeredOk =>
    if (s.slot p.slot).state = .fenced then
      s.updSlot p.slot fun r => { r with verdict := false }
    else s
  | .answeredWrong => s.raiseVerdict p.slot .probeFail 0 none (some p.tag)
  | .noAnswer => s.raiseVerdict p.slot .probeFail 0 none (some p.tag)
  | .cancelled => s
  | .none => s

/-- A probe ends (R154). -/
def State.endProbe (s : State) (p : InFlight) (outcome : ProbeOutcome)
    (answer : Option ProbeAnswer) : State :=
  (s.closeProbe p outcome answer).probeOutcome p outcome

/-- A probe in flight is cancelled; an IDLE engine has nothing to cancel (R156). -/
def State.cancelProbe (s : State) : State :=
  match s.engine.inFlight with
  | none => s
  | some p => s.endProbe p .cancelled none

/-- The request set emptied (R156). -/
def State.clearRequests (s : State) : State :=
  { s with engine := { s.engine with requests := Vector.replicate 32 none } }

/-- Eligibility of a request when a service is taken (R151). -/
def SlotRecord.eligible (r : SlotRecord) : ProbeOrigin → Bool
  | .quiet => decide (r.state = .live)
  | .recovery => decide (r.state = .fenced) && r.config.autoRestore && r.verdict
  | .command => r.state.accepting || decide (r.state = .fenced)

/-- The slot indexes in the order a service examines them: from after the pointer, wrapping (R151). -/
def serviceOrder (pointer : SlotIndex) : List SlotIndex := allSlots.map fun k => pointer + 1 + k

/-- The scan of a service (R151): the first eligible request is launched, ineligible ones on the way
are dropped. -/
def State.serviceScan (s : State) : List SlotIndex → State
  | [] => s
  | i :: rest =>
    match s.request? i with
    | none => s.serviceScan rest
    | some o =>
      if (s.slot i).eligible o then s.launch i o else (s.setRequest i none).serviceScan rest

/-- When a service is due (R151). -/
def State.serviceDue (s : State) : Bool :=
  s.engine.idle && decide (s.mode = .watching) && decide (0 < s.requestCount) && s.tableHasRoom

/-- The outcome of an answer by the slot's probe answer digest (R152). -/
def answerOutcome (expected : Option Digest) (d : Digest) : ProbeOutcome :=
  match expected with
  | none => .answeredOk
  | some x => if x = d then .answeredOk else .answeredWrong

/-- An RSP handed to the engine (R152, R157): the answer of the probe in flight ends it, any other is
a stale probe answer and is counted. -/
def State.probeAnswer (s : State) (i : SlotIndex) (tag : Tag) (d : Digest) : State :=
  let stale := { s with engine := { s.engine with stale := satAdd Config.max16 s.engine.stale 1 } }
  match s.engine.inFlight with
  | none => stale
  | some p =>
    if p.slot = i ∧ p.tag = tag then
      s.endProbe p (answerOutcome (s.slot i).config.probeDigest d)
        (some ⟨tickAge16 s.time.tick p.launch, d⟩)
    else stale

end Sys2Proof.Machine
end

