-- ==== Sys2Proof/Machine/Figures.lean ====
section
/-! DEFINITION. The census figures (R171), the periodic census (R165, R170), the chain census (R172,
R173), and the snapshot event (R194). -/

namespace Sys2Proof.Machine

/-- The number of slots in a state. -/
def State.countState (s : State) (st : SlotState) : Nat :=
  (allSlots.filter fun i => decide ((s.slot i).state = st)).length

/-- Slots per state (R171). -/
def State.stateCounts (s : State) : StateCounts :=
  { vacant := s.countState .vacant, parked := s.countState .parked,
    probation := s.countState .probation, live := s.countState .live,
    suspect := s.countState .suspect, draining := s.countState .draining,
    fenced := s.countState .fenced }

/-- The greatest oldest age over all slots (R171). -/
def State.oldestPendingAge (s : State) : Nat :=
  allSlots.foldl (fun m i => max m (s.oldestAge i)) 0

/-- The smallest last-window completions counter among LIVE slots; FFFFh when none is LIVE (R171). -/
def State.minLive (s : State) : Nat :=
  allSlots.foldl
    (fun m i => if (s.slot i).state = .live then min m (s.slot i).lastWindow.completions else m)
    Config.max16

/-- A CENSUS record of the figures as they stand, with the given verdicts field (R171). -/
def State.censusRecord (s : State) (verdicts : Nat) : AlertRecord :=
  .census s.time.windowNumber s.stateCounts s.occupancy s.oldestPendingAge s.minLive verdicts

/-- The snapshot record of a slot as it stands (R194). -/
def State.snapshotRecord (s : State) (i : SlotIndex) : SnapshotRecord :=
  { state := (s.slot i).state, requestCount := (s.slot i).requestCount, oldestAge := s.oldestAge i,
    lastWindow := (s.slot i).lastWindow, totals := (s.slot i).totals }

/-- A snapshot event (R194). -/
def State.takeSnapshot (s : State) (cause : SnapshotCause) : State :=
  { s with mgmt := { s.mgmt with snapshot :=
      { cause := cause, windowNumber := s.time.windowNumber, tick := s.time.tick,
        records := Vector.ofFn fun i => s.snapshotRecord i } } }

/-- The record of a census instant in WATCHING: built and placed, or, the outbox full, owed (R165,
R171). -/
def State.censusAlert (s : State) : State :=
  if s.report.outbox.length < Config.outboxCapacity then
    s.queueAlert (s.censusRecord s.report.periodVerdicts)
  else
    { s with report := { s.report with
        censusOwed := true
        owedVerdicts := satAdd Config.max16 s.report.owedVerdicts s.report.periodVerdicts } }

/-- The period verdict count returns to 0 (R170). -/
def State.clearPeriod (s : State) : State :=
  { s with report := { s.report with periodVerdicts := 0 } }

/-- The alert part of a census instant (R165, R170, R171). Outside WATCHING only the period verdict
count returns to 0. -/
def State.censusInstant (s : State) : State :=
  if s.mode = .watching then s.censusAlert.clearPeriod else s.clearPeriod

/-- The snapshot part of a census instant: in WATCHING only (R171). -/
def State.censusSnapshot (s : State) : State :=
  if s.mode = .watching then s.takeSnapshot .census else s

/-! ### The chain census -/

/-- The eight fields of a CEN payload (R176). -/
structure CenFields where
  states : StateCounts
  occupancy : Nat
  maxAge : Nat
  minLive : Nat
  verdicts : Nat
  merged : Nat
  notWatching : Nat
  seq : Byte
  deriving DecidableEq, Repr

/-- A CEN payload (R176). -/
def CenFields.payload (c : CenFields) : List Byte :=
  c.states.bytes2 ++ be16 c.occupancy ++ be16 c.maxAge ++ be16 c.minLive ++ be16 c.verdicts
    ++ be8 c.merged ++ be8 c.notWatching ++ [c.seq]

/-- The fields of a 25-byte CEN payload (R176). -/
def parseCen (p : List Byte) : CenFields :=
  { states :=
      { vacant := fromBE (slice p 0 2), parked := fromBE (slice p 2 2),
        probation := fromBE (slice p 4 2), live := fromBE (slice p 6 2),
        suspect := fromBE (slice p 8 2), draining := fromBE (slice p 10 2),
        fenced := fromBE (slice p 12 2) },
    occupancy := fromBE (slice p 14 2), maxAge := fromBE (slice p 16 2),
    minLive := fromBE (slice p 18 2), verdicts := fromBE (slice p 20 2),
    merged := fromBE (slice p 22 1), notWatching := fromBE (slice p 23 1),
    seq := (p.drop 24).headD 0 }

/-- Counts added, each saturating at 65535 (R173). -/
def StateCounts.add16 (a b : StateCounts) : StateCounts :=
  { vacant := satAdd Config.max16 a.vacant b.vacant, parked := satAdd Config.max16 a.parked b.parked,
    probation := satAdd Config.max16 a.probation b.probation,
    live := satAdd Config.max16 a.live b.live, suspect := satAdd Config.max16 a.suspect b.suspect,
    draining := satAdd Config.max16 a.draining b.draining,
    fenced := satAdd Config.max16 a.fenced b.fenced }

/-- The merge of this monitor's figures (R173). -/
def State.mergeCen (s : State) (c : CenFields) : CenFields :=
  if s.mode = .watching then
    { c with
      states := c.states.add16 s.stateCounts
      occupancy := satAdd Config.max16 c.occupancy s.occupancy
      maxAge := max c.maxAge s.oldestPendingAge
      minLive := min c.minLive s.minLive
      verdicts := satAdd Config.max16 c.verdicts s.report.periodVerdicts
      merged := satAdd 255 c.merged 1 }
  else { c with notWatching := satAdd 255 c.notWatching 1 }

/-- All counts 0. -/
def StateCounts.zero : StateCounts := ⟨0, 0, 0, 0, 0, 0, 0⟩

/-- The fields of the CEN frame that the end-of-chain monitor originates (R172). -/
def State.originCen (s : State) (seq : Byte) : CenFields :=
  if s.mode = .watching then
    { states := s.stateCounts, occupancy := s.occupancy, maxAge := s.oldestPendingAge,
      minLive := s.minLive, verdicts := s.report.periodVerdicts, merged := 1, notWatching := 0,
      seq := seq }
  else
    { states := .zero, occupancy := 0, maxAge := 0, minLive := Config.max16, verdicts := 0,
      merged := 0, notWatching := 1, seq := seq }

end Sys2Proof.Machine
end

