-- ==== Sys2Proof/Machine/Window.lean ====
section
/-! DEFINITION. The window close (R109 to R113), the boundary (R26), and the MARK actions (R30, R31). -/

namespace Sys2Proof.Machine

/-! ### Step 1: the window verdicts (R119 to R121) -/

/-- The STALL condition with its figure and tag (R120): no completion and no tardy answer in the
window, and the head of the age order arrived before the window that ends began. -/
def State.stallFound (s : State) (i : SlotIndex) (start : Tick) : Option (Nat × Tag) :=
  if (s.slot i).window.completions = 0 ∧ (s.slot i).window.tardies = 0 then
    match (s.ageOrder i).head? with
    | none => none
    | some e =>
      if tickBefore e.arrival start then some (tickAge16 s.time.tick e.arrival, e.tag) else none
  else none

/-- The MISS_RUN condition with its figure (R121). -/
def State.missFound (s : State) (i : SlotIndex) : Option Nat :=
  let n := (s.slot i).window.losts
  if (s.policySet i).missThreshold ≤ n then some n else none

/-- The LATE_RUN condition with its figure (R121). -/
def State.lateFound (s : State) (i : SlotIndex) : Option Nat :=
  let n := (s.slot i).window.lates + (s.slot i).window.tardies
  if (s.policySet i).lateThreshold ≤ n then some n else none

/-- The STRAY_RUN condition with its figure (R121). -/
def State.strayFound (s : State) (i : SlotIndex) : Option Nat :=
  let n := (s.slot i).window.strays
  if (s.policySet i).strayThreshold ≤ n then some n else none

/-- A count condition raised when it was found. -/
def State.raiseFound (s : State) (i : SlotIndex) (k : VerdictKind) : Option Nat → State
  | none => s
  | some figure => s.raiseVerdict i k figure none none

/-- A STALL condition raised when it was found. -/
def State.raiseStall (s : State) (i : SlotIndex) : Option (Nat × Tag) → State
  | none => s
  | some (figure, tag) => s.raiseVerdict i .stall figure none (some tag)

/-- The four conditions found before any acts, then raised in the fixed order (R119). -/
def State.windowVerdicts (s : State) (i : SlotIndex) (start : Tick) : State :=
  let stall := s.stallFound i start
  let miss := s.missFound i
  let late := s.lateFound i
  let stray := s.strayFound i
  (((s.raiseStall i stall).raiseFound i .missRun miss).raiseFound i .lateRun late).raiseFound
    i .strayRun stray

/-- Step 1 (R110): a FENCED slot and a settling slot are spared; then a settling count above 0
decrements. -/
def State.closeStep1 (s : State) (i : SlotIndex) (start : Tick) : State :=
  let s1 :=
    if (s.slot i).state ≠ .fenced ∧ (s.slot i).settling = 0 then s.windowVerdicts i start else s
  s1.updSlot i fun r => { r with settling := r.settling - 1 }

/-! ### Steps 2 to 9 -/

/-- Step 2 (R110): the clean run by the adverse flag, which is then cleared. -/
def SlotRecord.closeStep2 (r : SlotRecord) : SlotRecord :=
  { r with cleanRun := if r.adverse then 0 else satAdd 15 r.cleanRun 1, adverse := false }

/-- Step 3 (R111): promotion to LIVE. -/
def State.closeStep3 (s : State) (i : SlotIndex) : State :=
  let r := s.slot i
  if r.fencePending then s
  else if r.state = .probation ∧ (s.policySet i).probationWindows ≤ r.cleanRun then
    (s.updSlot i fun r => { r with ceiling := r.config.ceiling, quiet := 0 }).changeState
      i .live .probationDone
  else if r.state = .suspect ∧ (s.policySet i).confirmWindows ≤ r.cleanRun then
    (s.updSlot i fun r => { r with quiet := 0 }).changeState i .live .confirmed
  else s

/-- Step 4 (R112): a pending fence is taken. -/
def State.closeStep4 (s : State) (i : SlotIndex) : State :=
  if (s.slot i).fencePending then s.enterFenced i else s

/-- Step 5 (R112): a FENCED slot with no source set and auto-restore on returns. -/
def State.closeStep5 (s : State) (i : SlotIndex) : State :=
  let r := s.slot i
  if r.state = .fenced ∧ r.manual = false ∧ r.verdict = false ∧ r.config.autoRestore = true then
    s.enterProbation i .restore
  else s

/-- Step 6 (R99): the probation ramp. -/
def SlotRecord.closeStep6 (r : SlotRecord) : SlotRecord :=
  if r.state = .probation ∧ r.settling = 0 then
    { r with ceiling := min r.config.ceiling (r.ceiling + r.config.rampStep) }
  else r

/-- The counts of step 7 (R113). -/
def SlotRecord.advanceCounts (r : SlotRecord) : SlotRecord :=
  { r with
    quiet := if r.state = .live ∧ r.window.arrivals = 0 then satAdd 255 r.quiet 1 else 0
    sinceProbe :=
      if r.state = .fenced ∧ r.config.autoRestore = true ∧ r.verdict = true then
        satAdd 255 r.sinceProbe 1
      else r.sinceProbe }

/-- A quiet request (R150, first row). -/
def State.quietRequest (s : State) (i : SlotIndex) : State :=
  if s.engine.quietPeriod ≠ 0 ∧ (s.slot i).state = .live ∧ s.engine.quietPeriod ≤ (s.slot i).quiet then
    (s.joinRequest i .quiet).updSlot i fun r => { r with quiet := 0 }
  else s

/-- A recovery request (R150, second row). -/
def State.recoveryRequest (s : State) (i : SlotIndex) : State :=
  if (s.slot i).state = .fenced ∧ (s.slot i).config.autoRestore = true ∧ (s.slot i).verdict = true ∧
      s.engine.recoveryPeriod ≤ (s.slot i).sinceProbe then
    (s.joinRequest i .recovery).updSlot i fun r => { r with sinceProbe := 0 }
  else s

/-- Step 7 (R113, R150). -/
def State.closeStep7 (s : State) (i : SlotIndex) : State :=
  ((s.updSlot i SlotRecord.advanceCounts).quietRequest i).recoveryRequest i

/-- Step 8 (R113, R167): each hold above 0 decrements, and is then no more than the quiet gap. -/
def SlotRecord.paceDown (gap : Nat) (r : SlotRecord) : SlotRecord :=
  { r with pacing := r.pacing.map fun h => min gap (h - 1) }

/-- Step 9 (R102): the window counters copied and cleared. -/
def SlotRecord.rollover (r : SlotRecord) : SlotRecord :=
  { r with lastWindow := r.window, window := .zero }

/-- Steps 8 and 9, which the counter rollover of a PARKED slot also takes (R103, R167). -/
def State.closeTail (s : State) (i : SlotIndex) : State :=
  s.updSlot i fun r => (r.paceDown (s.policySet i).quietGap).rollover

/-- The window close of a watched slot: nine ordered steps (R109). -/
def State.windowClose (s : State) (i : SlotIndex) (start : Tick) : State :=
  let s2 := (s.closeStep1 i start).updSlot i SlotRecord.closeStep2
  let s5 := ((s2.closeStep3 i).closeStep4 i).closeStep5 i
  ((s5.updSlot i SlotRecord.closeStep6).closeStep7 i).closeTail i

/-- A slot's turn at a boundary, by the state it has when the turn is taken (R109). -/
def State.slotTurn (start : Tick) (s : State) (i : SlotIndex) : State :=
  if (s.slot i).state.watched then s.windowClose i start
  else if (s.slot i).state = .parked then s.closeTail i
  else s

/-- A list without repeats: each slot where it stands first. -/
def firstOccurrences : List SlotIndex → List SlotIndex → List SlotIndex
  | _, [] => []
  | seen, i :: rest =>
    if i ∈ seen then firstOccurrences seen rest else i :: firstOccurrences (i :: seen) rest

/-- The order of the 32 turns: the preferred slots first, then the others ascending (R109 leaves the
order open; log entry 4). -/
def turnSequence (turns : List SlotIndex) : List SlotIndex := firstOccurrences [] (turns ++ allSlots)

/-! ### The boundary (R26) -/

/-- Steps 1 to 3 of R26: window number, latched length, window counter and start tick. -/
def TimeBase.openWindow (t : TimeBase) : TimeBase :=
  { t with
    windowNumber := t.windowNumber + 1
    activeLength := t.latchedLength.getD t.activeLength
    latchedLength := none
    windowCounter := 0
    windowStart := t.tick }

/-- The boundary is a census instant (R28). -/
def TimeBase.censusDue (t : TimeBase) : Bool :=
  decide (t.postscale ≠ 0) && decide (t.postscale ≤ t.postscaleCount + 1)

/-- Step 4 of R26: the postscale count advances (R28). -/
def TimeBase.advancePostscale (t : TimeBase) : TimeBase :=
  { t with postscaleCount :=
      if t.postscale = 0 then 0
      else if t.postscale ≤ t.postscaleCount + 1 then 0
      else t.postscaleCount + 1 }

/-- The boundary up to its last window close: the time base, then the turn of every slot record, which
reads the start tick of the window that ends (R26). -/
def State.boundaryCloses (s : State) (turns : List SlotIndex) : State :=
  (turnSequence turns).foldl (State.slotTurn s.time.windowStart)
    { s with time := s.time.openWindow.advancePostscale }

/-- The alert part of the boundary's census instant, if it is one (R26, R171). -/
def State.boundaryCensus (due : Bool) (s : State) : State := if due then s.censusInstant else s

/-- The snapshot part of the boundary's census instant, if it is one (R171). -/
def State.boundarySnapshot (due : Bool) (s : State) : State := if due then s.censusSnapshot else s

/-- A boundary (R26). -/
def State.boundary (s : State) (turns : List SlotIndex) : State :=
  ((s.boundaryCloses turns).boundaryCensus s.time.censusDue).boundarySnapshot s.time.censusDue

/-! ### MARK (R29 to R31) -/

/-- A commit: every staged profile and policy set becomes active (R124, R192). -/
def State.commitTables (s : State) : State :=
  { s with
    policy := { s.policy with active := s.policy.staged }
    mgmt := { s.mgmt with activeProfiles := s.mgmt.stagedProfiles } }

/-- The COMMIT action of an edge. -/
def State.markCommit (s : State) : State :=
  if s.time.markEnables.commit then s.commitTables else s

/-- The SNAPSHOT action of an edge. -/
def State.markSnapshot (s : State) : State :=
  if s.time.markEnables.snapshot then s.takeSnapshot .mark else s

/-- The MARK event (R29, R30, R31): with ALIGN enabled and the window counter at 1 or more, an align
boundary; the commit and the snapshot of the edge after its closes. -/
def State.markEvent (s : State) (orders : EdgeOrders) : State :=
  if s.time.markEnables.align = true ∧ 1 ≤ s.time.windowCounter then
    let due := s.time.censusDue
    let s1 := ((s.boundaryCloses orders.turns).boundaryCensus due).markCommit
    if orders.censusLast then s1.markSnapshot.boundarySnapshot due
    else (s1.boundarySnapshot due).markSnapshot
  else s.markCommit.markSnapshot

/-- MARK sampled at a level, which becomes the previous sample (R29). -/
def State.sampleMark (s : State) (level : Bool) : State :=
  { s with time := { s.time with markSample := level } }

/-- A sample that is high after one that was low is a rising edge, and the edge is the MARK event; any
other sample is only recorded (R29). -/
def State.takeMark (s : State) (level : Bool) (orders : EdgeOrders) : State :=
  if level = true ∧ s.time.markSample = false then
    (s.sampleMark true).markEvent orders
  else s.sampleMark level

end Sys2Proof.Machine
end

