-- ==== Sys2Proof/Machine/Admission.lean ====
section
/-! DEFINITION. Admission of requests (R39 to R47), twin linking (R73 to R75), and what the classifier
does with each frame taken at UP (R11, R14, R15, R187). -/

namespace Sys2Proof.Machine

/-! ### The decision (R39) -/

/-- The outcome of admission (R39, R43). -/
inductive Admission where
  /-- Forwarded untracked. -/
  | untracked
  /-- A retry of the slot's entry, forwarded (R44). -/
  | retry
  /-- An entry is created under the slot; forwarded (R46). -/
  | create
  /-- A retry of the stand-in's entry, forwarded rewritten (R43). -/
  | redirectRetry (standIn : SlotIndex)
  /-- Forwarded rewritten, untracked (R43). -/
  | redirectUntracked (standIn : SlotIndex)
  /-- An entry is created under the stand-in; forwarded rewritten (R43). -/
  | redirectCreate (standIn : SlotIndex)
  /-- Bounced; `full` says that the flag TABLE_FULL is set (R43, R45). -/
  | bounce (reason : BounceReason) (full : Bool)
  deriving DecidableEq, Repr

/-- The bounce reason that a refusing slot's state gives (R40, R42). -/
def SlotState.refusal : SlotState → BounceReason
  | .draining => .draining
  | .fenced => .fenced
  | .parked | .vacant | .probation | .live | .suspect => .parked

/-- The redirect decision for a request that the slot refuses (R42, R43). -/
def State.redirection (s : State) (i : SlotIndex) (f : Frame) : Admission :=
  match (s.slot i).config.standIn with
  | none => .bounce (s.slot i).state.refusal false
  | some j =>
    if (s.slot j).state.accepting = false then .bounce .standInRefused false
    else
      match s.findEntry j f.tag with
      | some e =>
        match e.kind with
        | .request =>
          if e.retries < Config.retryLimit then .redirectRetry j else .bounce .retryLimit false
        | .probe => .bounce .standInRefused false
      | none =>
        if (s.profile f.cls).watched = false then .redirectUntracked j
        else if (s.slot j).requestCount < (s.slot j).ceiling ∧ s.tableHasRoom = true then
          .redirectCreate j
        else .bounce .standInRefused (!s.tableHasRoom)

/-- Steps 4 to 8 for an accepting slot (R39, R44 to R46). -/
def State.acceptance (s : State) (i : SlotIndex) (f : Frame) : Admission :=
  if (s.profile f.cls).watched = false then .untracked
  else
    match s.findEntry i f.tag with
    | some e =>
      match e.kind with
      | .request => if e.retries < Config.retryLimit then .retry else .bounce .retryLimit false
      | .probe => .untracked
    | none =>
      if (s.slot i).ceiling ≤ (s.slot i).requestCount then .bounce .ceiling false
      else if s.tableHasRoom = false then .bounce .tableFull true
      else .create

/-- Admission (R39): the first test that holds decides. -/
def State.admission (s : State) (i : SlotIndex) (f : Frame) : Admission :=
  let st := (s.slot i).state
  if tagMarker f.tag = s.engine.marker then
    if st = .vacant ∨ st.accepting = true then .untracked else .bounce st.refusal false
  else if st = .vacant then .untracked
  else if st.accepting = false then s.redirection i f
  else s.acceptance i f

/-! ### Carrying it out -/

/-- A REQUEST entry for a request taken now (R34, R38, R46). -/
def requestEntry (s : State) (i : SlotIndex) (f : Frame) (redirected : Bool) : Entry :=
  let p := s.profile f.cls
  let deadline := s.time.tick + BitVec.ofNat 32 p.deadline
  { slot := i, tag := f.tag, cls := f.cls, kind := .request, state := .opened,
    arrival := s.time.tick, deadline := deadline, loss := deadline + BitVec.ofNat 32 p.grace,
    retries := 0, redirected := redirected, partner := none, pairWindow := none, digest := none,
    twinExpiry := none, straggled := false }

/-- A candidate for twin linking (R73). -/
def Entry.linkable (e : Entry) : Bool :=
  decide (e.kind = .request) && !e.redirected && e.partner.isNone && !e.straggled
    && !decide (e.state = .held)

/-- Twin linking within a creation (R73, R75). -/
def State.linkTwin (s : State) (i : SlotIndex) (f : Frame) : State :=
  match (s.slot i).config.twin with
  | none => s
  | some j =>
    match s.findEntry j f.tag with
    | none => s
    | some c =>
      if c.linkable then
        let w := (s.profile f.cls).twinWindow
        (s.updEntry ⟨i, f.tag⟩ fun e => { e with partner := some ⟨j, f.tag⟩, pairWindow := some w })
          |>.updEntry ⟨j, f.tag⟩ fun e =>
            { e with partner := some ⟨i, f.tag⟩, pairWindow := some w }
      else s

/-- A REQUEST entry created and its arrival credited (R46, R43). -/
def State.createEntry (s : State) (i : SlotIndex) (f : Frame) (redirected : Bool) : State :=
  (s.addEntry (requestEntry s i f redirected)).credit i .arrivals

/-- One more retry of an entry (R44). -/
def State.countRetry (s : State) (i : SlotIndex) (tag : Tag) : State :=
  s.updEntry ⟨i, tag⟩ fun e => { e with retries := e.retries + 1 }

/-- The UP receive stage emptied. -/
def State.clearUpStage (s : State) : State := { s with trunk := { s.trunk with upStage := none } }

/-- A frame enters the descending through buffer (R7). -/
def State.forwardDown (s : State) (f : Frame) : State :=
  { s with trunk := { s.trunk with descBuffer := s.trunk.descBuffer ++ [f] } }

/-- A request rewritten to the stand-in's slot address, its check recomputed (R13, R43). -/
def State.rewriteTo (s : State) (j : SlotIndex) (f : Frame) : Frame :=
  Frame.withCheck { f with slot := BitVec.ofNat 8 (s.slotAddr j) }

/-- A request forwarded rewritten: the refusing slot's redirect counter and the frame (R43). -/
def State.forwardRewritten (s : State) (i j : SlotIndex) (f : Frame) : State :=
  (s.credit i .redirects).forwardDown (s.rewriteTo j f)

/-- The BNC frame of a bounced request (R168, R176). -/
def State.bounceFrame (s : State) (f : Frame) (reason : BounceReason) : Frame :=
  mkFrame 3 f.cls f.slot f.tag (be8 reason.code ++ be8 s.mgmt.chain.toNat)

/-- A bounce placed (R47, R169). -/
def State.placeBounce (s : State) (i : SlotIndex) (f : Frame) (reason : BounceReason) (full : Bool) :
    State :=
  let s1 := { s with report := { s.report with
    bounceQueue := s.report.bounceQueue ++ [s.bounceFrame f reason] } }.credit i .bounces
  if full then s1.setTableFull else s1

/-- Admission carried out on a request taken at UP (R39, R47). A bounce that finds the bounce queue
full is not carried out: the frame stays in the stage and nothing changes (R10). -/
def State.carryAdmission (s : State) (i : SlotIndex) (f : Frame) : State :=
  match s.admission i f with
  | .untracked => s.clearUpStage.forwardDown f
  | .retry => (s.clearUpStage.countRetry i f.tag).forwardDown f
  | .create => ((s.clearUpStage.createEntry i f false).linkTwin i f).forwardDown f
  | .redirectRetry j => (s.clearUpStage.countRetry j f.tag).forwardRewritten i j f
  | .redirectUntracked j => s.clearUpStage.forwardRewritten i j f
  | .redirectCreate j => (s.clearUpStage.createEntry j f true).forwardRewritten i j f
  | .bounce reason full =>
    if s.report.bounceQueue.length < Config.bounceCapacity then
      s.clearUpStage.placeBounce i f reason full
    else s

/-! ### Management frames (R14, R15, R187) -/

/-- How an MGT frame's destination code concerns this monitor (R2, R14, R15). -/
def State.destination (s : State) (code : Byte) : Option Addressing :=
  if code = 0xFF then some .all
  else if s.mgmt.chain ≠ 0 ∧ code = s.mgmt.chain.zeroExtend 8 then some .own
  else if 0x40 ≤ code.toNat ∧ code.toNat ≤ 0x43 ∧ s.mgmt.groups.getLsbD (code.toNat - 0x40) = true then
    some .group
  else none

/-- A copy enters the command buffer, or, the buffer occupied, is discarded with CMD_DROPPED (R14,
R15). -/
def State.bufferCommand (s : State) (f : Frame) (how : Addressing) : State :=
  match s.mgmt.command with
  | none =>
    { s with mgmt := { s.mgmt with command := some ⟨f.payload, f.tag.extractLsb' 0 8, how⟩ } }
  | some _ => s.setCmdDropped

/-- The frame as an acting monitor forwards it: an all-addressed ENUMERATE of a 2-byte payload carries
n + 1, saturating at 255, with its check recomputed (R187); any other is unchanged. -/
def forwardedCommand (how : Addressing) (f : Frame) : Frame :=
  match how, f.payload with
  | .all, [c, n] =>
    if c = 0x01 then
      Frame.withCheck { f with payload := [c, BitVec.ofNat 8 (satAdd 255 n.toNat 1)] }
    else f
  | _, _ => f

/-- An MGT frame taken at UP (R14, R15): the end-of-chain monitor forwards none. -/
def State.takeCommand (s : State) (f : Frame) : State :=
  let s0 := s.clearUpStage
  match s.destination f.slot with
  | some .own => s0.bufferCommand f .own
  | some how =>
    let s1 := s0.bufferCommand f how
    if s.trunk.endStrap then s1 else s1.forwardDown (forwardedCommand how f)
  | none => if s.trunk.endStrap then s0 else s0.forwardDown f

/-- A REQ taken at UP (R11). -/
def State.takeRequest (s : State) (f : Frame) : State :=
  if s.mode = .watching then
    match s.slotIndex? f.slot.toNat with
    | some i => s.carryAdmission i f
    | none => s.clearUpStage.forwardDown f
  else s.clearUpStage.forwardDown f

/-- A frame taken from the UP receive stage (R11). -/
def State.classifyUp (s : State) (f : Frame) : State :=
  match frameKind f.kind with
  | .req => s.takeRequest f
  | .mgt => s.takeCommand f
  | .rsp | .bnc | .mrp | .alr | .cen | .unknown => s.clearUpStage.forwardDown f

end Sys2Proof.Machine
end

