-- ==== Sys2Proof/Machine/Matching.lean ====
section
/-! DEFINITION. Matching of responses (R48 to R55), latency capture (R104, R105), the held answer and
twin comparison (R76 to R79), and what the classifier does with each frame taken at DOWN (R12). -/

namespace Sys2Proof.Machine

/-! ### Latency capture -/

/-- A captured sample joins the FIFO, or, the FIFO full, is discarded and the overflow flag set (R105). -/
def SlotRecord.pushSample (r : SlotRecord) (x : Sample) : SlotRecord :=
  if r.latency.length < Config.latencyCapacity then { r with latency := r.latency ++ [x] }
  else { r with overflow := true }

/-- The latency sample rule (R104). -/
def SlotRecord.sampleLatency (r : SlotRecord) (x : Sample) : SlotRecord :=
  if r.captureCount + 1 = r.config.divisor then { r with captureCount := 0 }.pushSample x
  else { r with captureCount := r.captureCount + 1 }

/-! ### Completion -/

/-- The completion counted at an entry, late when it was OVERDUE, and the latency sample rule (R52). -/
def State.countCompletion (s : State) (e : Entry) : State :=
  let s1 := s.credit e.slot .completions
  let s2 := if e.state = .overdue then s1.credit e.slot .lates else s1
  s2.updSlot e.slot fun r =>
    r.sampleLatency ⟨tickAge16 s.time.tick e.arrival, e.cls, decide (e.state = .overdue)⟩

/-- The first answer of a pair makes its entry HELD (R76). -/
def State.holdEntry (s : State) (e : Entry) (d : Digest) : State :=
  s.updEntry e.key fun e => { e with
    state := .held
    digest := some d
    twinExpiry := some (s.time.tick + BitVec.ofNat 32 (e.pairWindow.getD 0)) }

/-- Two entries removed, in the chosen order (R78 leaves it open; log entry 5). -/
def State.removePair (s : State) (held answered : Entry) (heldFirst : Bool) : State :=
  if heldFirst then (s.removeEntry held).removeEntry answered
  else (s.removeEntry answered).removeEntry held

/-- The DIVERGE condition against the slot of entry `e`, its twin's entry being `p` (R79). -/
def State.raiseDiverge (s : State) (e p : Entry) : State :=
  s.raiseVerdict e.slot .diverge 0 (some (s.slotAddr p.slot)) (some e.tag)

/-- The two DIVERGE conditions, in the chosen order (R79 leaves it open; log entry 5). -/
def State.raiseDivergences (s : State) (held answered : Entry) (heldFirst : Bool) : State :=
  if heldFirst then (s.raiseDiverge held answered).raiseDiverge answered held
  else (s.raiseDiverge answered held).raiseDiverge held answered

/-- The second answer of a pair: equal digests remove both entries COMPLETED (R78), unequal digests
remove both DIVERGED, credit divergences in both slots and raise DIVERGE against each (R79). A slot that
its removal has parked (R95) is judged as PARKED (log entry 29). -/
def State.compareTwins (s : State) (held answered : Entry) (d : Digest)
    (heldRemovedFirst heldJudgedFirst : Bool) : State :=
  let s1 := s.removePair held answered heldRemovedFirst
  if held.digest = some d then s1
  else
    ((s1.credit held.slot .divergences).credit answered.slot .divergences).raiseDivergences
      held answered heldJudgedFirst

/-- The disposal of an answered entry by its partner field (R52). -/
def State.disposeAnswered (s : State) (e : Entry) (d : Digest)
    (heldRemovedFirst heldJudgedFirst : Bool) : State :=
  match e.partner with
  | none => s.removeEntry e
  | some k =>
    match s.findEntry k.slot k.tag with
    | none => s.removeEntry e
    | some p =>
      if p.state = .held then s.compareTwins p e d heldRemovedFirst heldJudgedFirst
      else s.holdEntry e d

/-! ### Matching (R48) -/

/-- The outcome of matching (R48). -/
inductive Matching where
  /-- Step 1: given to the probe engine; absorbed. -/
  | probe
  /-- Steps 1a, 2 and 4: forwarded untracked. -/
  | untracked
  /-- Step 3: absorbed, the absorbed counter credited. -/
  | absorbed
  /-- Step 5: the answer of this REQUEST entry, OPEN or OVERDUE (R52). -/
  | completion (e : Entry)
  /-- Step 5: a duplicate answer of a HELD entry (R53). -/
  | duplicate
  /-- Step 6 (R54). -/
  | tardy
  /-- Step 7 (R55). -/
  | stray
  deriving DecidableEq, Repr

/-- The slot holds a PROBE entry with this tag (R49). -/
def State.probeEntryHas (s : State) (i : SlotIndex) (tag : Tag) : Bool :=
  match s.findEntry i tag with
  | some e => decide (e.kind = .probe)
  | none => false

/-- Steps 4 to 7 of matching. -/
def State.matchEntry (s : State) (i : SlotIndex) (f : Frame) : Matching :=
  match s.findEntry i f.tag with
  | some e => if e.state = .held then .duplicate else .completion e
  | none =>
    if (s.profile f.cls).watched = false then .untracked
    else if f.tag ∈ (s.slot i).lostTags then .tardy
    else .stray

/-- Matching (R48): the first test that holds decides. -/
def State.matching (s : State) (i : SlotIndex) (f : Frame) : Matching :=
  if (tagMarker f.tag = s.engine.marker ∧ tagChain f.tag = s.mgmt.chain) ∨
      s.probeEntryHas i f.tag = true then .probe
  else if tagMarker f.tag = s.engine.marker then .untracked
  else if (s.slot i).state = .vacant ∨ (s.slot i).state = .parked then .untracked
  else if (s.slot i).state = .fenced then .absorbed
  else s.matchEntry i f

/-- The DOWN receive stage emptied. -/
def State.clearDownStage (s : State) : State := { s with trunk := { s.trunk with downStage := none } }

/-- A frame enters the ascending through buffer (R7). -/
def State.forwardUp (s : State) (f : Frame) : State :=
  { s with trunk := { s.trunk with ascBuffer := s.trunk.ascBuffer ++ [f] } }

/-- Matching carried out (R48 to R55); the answer digest is the CRC of the payload (R4). -/
def State.carryMatching (s : State) (i : SlotIndex) (f : Frame)
    (heldRemovedFirst heldJudgedFirst : Bool) : State :=
  let s0 := s.clearDownStage
  match s.matching i f with
  | .probe => s0.probeAnswer i f.tag (crc f.payload)
  | .untracked => s0.forwardUp f
  | .absorbed => s0.credit i .absorbed
  | .completion e =>
    ((s0.countCompletion e).disposeAnswered e (crc f.payload) heldRemovedFirst
      heldJudgedFirst).forwardUp f
  | .duplicate => (s0.credit i .strays).forwardUp f
  | .tardy =>
    ((s0.updSlot i fun r => { r with lostTags := r.lostTags.erase f.tag }).credit i
      .tardies).forwardUp f
  | .stray => (s0.credit i .strays).forwardUp f

/-- A CEN frame taken at DOWN: of length 25, merged and rewritten (R173); else untouched (R176). -/
def State.mergedFrame (s : State) (f : Frame) : Frame :=
  if f.payload.length = 25 then
    Frame.withCheck { f with payload := (s.mergeCen (parseCen f.payload)).payload }
  else f

/-- An RSP taken at DOWN (R12). -/
def State.takeResponse (s : State) (f : Frame) (heldRemovedFirst heldJudgedFirst : Bool) : State :=
  if s.mode = .watching then
    match s.slotIndex? f.slot.toNat with
    | some i => s.carryMatching i f heldRemovedFirst heldJudgedFirst
    | none => s.clearDownStage.forwardUp f
  else s.clearDownStage.forwardUp f

/-- A frame taken from the DOWN receive stage (R12). -/
def State.classifyDown (s : State) (f : Frame) (heldRemovedFirst heldJudgedFirst : Bool) : State :=
  match frameKind f.kind with
  | .rsp => s.takeResponse f heldRemovedFirst heldJudgedFirst
  | .cen => s.clearDownStage.forwardUp (s.mergedFrame f)
  | .req | .bnc | .mgt | .mrp | .alr | .unknown => s.clearDownStage.forwardUp f

end Sys2Proof.Machine
end

