-- ==== Sys2Proof/Machine/TrunkInterface.lean ====
section
/-! DEFINITION. The commands of the trunk interface (chapter 1). -/

namespace Sys2Proof.Machine

/-- The result of a command. -/
abbrev Result := Host.Outcome State Fault Refusal

/-- A port asserts hold toward its partner (R8); an output, not stored. A receive stage holds a frame from the
frame's completion on: that a frame part-way through reception does not assert hold is the model's choice, log
entry 33. -/
def State.assertsHold (s : State) : Port → Bool
  | .up =>
    decide (s.mode = .starting) || s.trunk.upStage.isSome
      || decide (Config.throughCapacity ≤ s.trunk.descBuffer.length)
  | .down =>
    decide (s.mode = .starting) || s.trunk.downStage.isSome
      || decide (Config.throughCapacity ≤ s.trunk.ascBuffer.length)

/-- A bad frame at a port: its counter and its flag (R5). -/
def State.countBad (s : State) : Port → State
  | .up =>
    { s with trunk := { s.trunk with upErrors := satAdd Config.max16 s.trunk.upErrors 1 } }.setFlags
      fun f => { f with linkUpErr := true }
  | .down =>
    { s with trunk := { s.trunk with downErrors := satAdd Config.max16 s.trunk.downErrors 1 } }.setFlags
      fun f => { f with linkDownErr := true }

/-- The frame in a port's receive stage (R5). -/
def State.stage (s : State) : Port → Option Frame
  | .up => s.trunk.upStage
  | .down => s.trunk.downStage

/-- A good frame in a port's receive stage. -/
def State.setStage (s : State) (f : Frame) : Port → State
  | .up => { s with trunk := { s.trunk with upStage := some f } }
  | .down => { s with trunk := { s.trunk with downStage := some f } }

/-- The frame now arriving at a port is to be discarded uncounted (R6). -/
def State.discarding (s : State) : Port → Bool
  | .up => s.trunk.upDiscard
  | .down => s.trunk.downDiscard

/-- Its end: the port judges the next frame. -/
def State.endDiscard (s : State) : Port → State
  | .up => { s with trunk := { s.trunk with upDiscard := false } }
  | .down => { s with trunk := { s.trunk with downDiscard := false } }

/-- A frame ends at a port and `judged` is what becomes of it (R6): in STARTING, and where the partner
began it in STARTING or while RST_N was low (R200), it is discarded uncounted instead. -/
def State.frameEnds (s : State) (port : Port) (judged : State) : State :=
  if s.mode = .starting then s
  else if s.discarding port then s.endDiscard port
  else judged

/-- FRAME_COMPLETE (R5, R6). A good frame waits in the receive stage; a bad frame is counted, flagged and
discarded. A frame that ends while the stage is occupied is an overrun (log entry 11). -/
def execFrameComplete (port : Port) (bytes : List Byte) (s : State) : Result :=
  .next <| s.frameEnds port <|
    if (s.stage port).isSome then s.countBad port
    else
      match parseFrame bytes with
      | some f => s.setStage f port
      | none => s.countBad port

/-- FRAME_OVERRUN (R6): counted as a bad frame. -/
def execFrameOverrun (port : Port) (s : State) : Result :=
  .next <| s.frameEnds port (s.countBad port)

/-- TAKE_UP_FRAME (R10, R11): taken when the descending through buffer has a free place; in STARTING
no frame is taken (R199). -/
def execTakeUpFrame (s : State) : Result :=
  .next <|
    match s.trunk.upStage with
    | none => s
    | some f =>
      if s.mode ≠ .starting ∧ s.trunk.descBuffer.length < Config.throughCapacity then s.classifyUp f
      else s

/-- TAKE_DOWN_FRAME (R10, R12). -/
def execTakeDownFrame (heldRemovedFirst heldJudgedFirst : Bool) (s : State) : Result :=
  .next <|
    match s.trunk.downStage with
    | none => s
    | some f =>
      if s.mode ≠ .starting ∧ s.trunk.ascBuffer.length < Config.throughCapacity then
        s.classifyDown f heldRemovedFirst heldJudgedFirst
      else s

/-! ### Transmission (R16 to R18) -/

/-- What the report unit places when a place frees in an outbox that held 32 records (R164, R165):
`s` already has the place free. -/
def State.outboxFreed (s : State) : State :=
  if 0 < s.report.lostCount then
    { s with report := { s.report with lostCount := 0 } }.queueAlert (.overflow s.report.lostCount)
  else if s.report.censusOwed then
    { s with report := { s.report with censusOwed := false, owedVerdicts := 0 } }.queueAlert
      (s.censusRecord s.report.owedVerdicts)
  else s

/-- The UP transmitter begins a frame of a kind (R16, R17). -/
def State.beginUp (s : State) (f : Frame) (k : LastSent) : State :=
  { s with trunk := { s.trunk with upSending := some f, ascLast := k } }

/-- The head of the ascending through buffer begins (R7, R17). -/
def State.sendThroughUp (s : State) : State :=
  match s.trunk.ascBuffer with
  | [] => s
  | f :: rest => { s with trunk := { s.trunk with ascBuffer := rest } }.beginUp f .through

/-- An inserted frame waits for UP (R17). -/
def State.insertedWaits (s : State) : Bool :=
  !s.report.bounceQueue.isEmpty || !s.mgmt.replyQueue.isEmpty || !s.report.outbox.isEmpty

/-- The inserted frame that goes: the head of the bounce queue, else of the reply queue, else of the
outbox (R17), with what a freed place of a full outbox takes (R164). -/
def State.sendInserted (s : State) : State :=
  match s.report.bounceQueue, s.mgmt.replyQueue, s.report.outbox with
  | f :: rest, _, _ => { s with report := { s.report with bounceQueue := rest } }.beginUp f .inserted
  | [], f :: rest, _ => { s with mgmt := { s.mgmt with replyQueue := rest } }.beginUp f .inserted
  | [], [], r :: rest =>
    let s1 := { s with report := { s.report with outbox := rest } }.beginUp r.frame .inserted
    if Config.outboxCapacity ≤ s.report.outbox.length then s1.outboxFreed else s1
  | [], [], [] => s

/-- The UP transmitter is free (R16). -/
def State.upFree (s : State) : Bool :=
  s.trunk.upSending.isNone && !s.trunk.upHeld && !decide (s.mode = .starting)

/-- UP_TRANSMIT_BEGIN: the choice of the ascending arbiter (R17). -/
def execUpTransmitBegin (s : State) : Result :=
  .next <|
    if s.upFree = false then s
    else if s.trunk.ascBuffer.isEmpty then s.sendInserted
    else if s.insertedWaits && decide (s.trunk.ascLast = .through) then s.sendInserted
    else s.sendThroughUp

/-- The DOWN transmitter is free (R16). -/
def State.downFree (s : State) : Bool :=
  s.trunk.downSending.isNone && !s.trunk.downHeld && !decide (s.mode = .starting)

/-- The DOWN transmitter begins a frame of a kind (R16, R18). -/
def State.beginDown (s : State) (f : Frame) (k : LastSent) : State :=
  { s with trunk := { s.trunk with downSending := some f, descLast := k } }

/-- The head of the descending through buffer begins (R7, R18). -/
def State.sendThroughDown (s : State) : State :=
  match s.trunk.descBuffer with
  | [] => s
  | f :: rest => { s with trunk := { s.trunk with descBuffer := rest } }.beginDown f .through

/-- The pending probe request begins (R18). -/
def State.sendProbe (s : State) : State :=
  match s.engine.pendingFrame with
  | none => s
  | some f => { s with engine := { s.engine with pendingFrame := none } }.beginDown f .inserted

/-- DOWN_TRANSMIT_BEGIN: the choice of the descending arbiter (R18). -/
def execDownTransmitBegin (s : State) : Result :=
  .next <|
    if s.downFree = false then s
    else if s.trunk.descBuffer.isEmpty then s.sendProbe
    else if s.engine.pendingFrame.isSome && decide (s.trunk.descLast = .through) then s.sendProbe
    else s.sendThroughDown

/-- TRANSMIT_END (R16): the frame being sent has been sent to its end. -/
def execTransmitEnd (port : Port) (s : State) : Result :=
  .next <|
    match port with
    | .up => { s with trunk := { s.trunk with upSending := none } }
    | .down => { s with trunk := { s.trunk with downSending := none } }

/-- PARTNER_HOLD_CHANGE (R9). -/
def execPartnerHoldChange (port : Port) (asserted : Bool) (s : State) : Result :=
  .next <|
    match port with
    | .up => { s with trunk := { s.trunk with upHeld := asserted } }
    | .down => { s with trunk := { s.trunk with downHeld := asserted } }

end Sys2Proof.Machine
end

