-- ==== Sys2Proof/Machine/Timed.lean ====
section
/-! DEFINITION. The tick, the timed events of entries and probe, the boundary, MARK and the probe
service (chapters 2, 3, 4, 7). -/

namespace Sys2Proof.Machine

/-! ### Timed events (R23, R38, R76) -/

/-- The deadline event of a REQUEST entry is due: it is OPEN, its deadline is the present tick, and
its class grace was not 0 (with grace 0 the loss event alone is taken, R58). -/
def Entry.deadlineDue (e : Entry) (now : Tick) : Bool :=
  decide (e.kind = .request) && decide (e.state = .opened) && decide (e.deadline = now)
    && !decide (e.loss = e.deadline)

/-- The loss event of a REQUEST entry is due: OVERDUE, or OPEN with grace 0, at its loss tick (R57,
R58). -/
def Entry.lossDue (e : Entry) (now : Tick) : Bool :=
  decide (e.kind = .request) && decide (e.loss = now)
    && (decide (e.state = .overdue) || (decide (e.state = .opened) && decide (e.loss = e.deadline)))

/-- The twin-window expiry event of a HELD entry is due (R76, R80). -/
def Entry.expiryDue (e : Entry) (now : Tick) : Bool :=
  decide (e.kind = .request) && decide (e.state = .held) && decide (e.twinExpiry = some now)

/-- The deadline event of the PROBE entry is due (R56, R153). -/
def Entry.probeDue (e : Entry) (now : Tick) : Bool :=
  decide (e.kind = .probe) && decide (e.deadline = now)

/-- Some timed event of the entry is due. -/
def Entry.due (e : Entry) (now : Tick) : Bool :=
  e.deadlineDue now || e.lossDue now || e.expiryDue now || e.probeDue now

/-- The natural boundary is due: the window counter has reached the active window length (R25). -/
def State.boundaryDue (s : State) : Bool := decide (s.time.activeLength ≤ s.time.windowCounter)

/-- The claim timeout event is due: the timer, which runs in UNCLAIMED, has counted its timeout (R203). -/
def State.claimDue (s : State) : Bool :=
  decide (s.mode = .unclaimed) &&
    match s.mgmt.claimTimer with
    | none => false
    | some c => decide (c.timeout * Config.claimUnit ≤ c.periods)

/-- An event of the present moment has not been taken yet: a boundary or an entry's timed event of the
present tick (R23), or the claim timeout (R203). -/
def State.eventDue (s : State) : Bool :=
  s.boundaryDue || s.claimDue || s.table.any fun e => e.due s.time.tick

/-- A running claim timer over `n` reference clock periods; it counts no further than its expiry. -/
def ClaimTimer.count (c : ClaimTimer) (n : Nat) : ClaimTimer :=
  { c with periods := min (c.timeout * Config.claimUnit) (c.periods + n) }

/-- The claim timer over `n` reference clock periods: it runs while the mode is UNCLAIMED (R203). -/
def State.countClaim (s : State) (n : Nat) : State :=
  if s.mode = .unclaimed then
    { s with mgmt := { s.mgmt with claimTimer := s.mgmt.claimTimer.map fun c => c.count n } }
  else s

/-- A tick (R21, R25): the divider count returns to 0, the tick counter and the window counter
increment. -/
def TimeBase.countTick (t : TimeBase) : TimeBase :=
  { t with dividerCount := 0, tick := t.tick + 1, windowCounter := t.windowCounter + 1 }

/-- The reference clock periods from now up to the next tick, that of the tick included (R21). -/
def TimeBase.periodsToTick (t : TimeBase) : Nat := max 1 (t.divider - t.dividerCount)

/-- A tick where one can be: not in STARTING, where the time base stands still (R21), and not before
every event of the present moment has been taken (R23; log entry 3). The claim timer counts the reference
clock periods that end with the tick (R203). -/
def State.takeTick (s : State) : State :=
  if s.mode = .starting ∨ s.eventDue = true then s
  else { s.countClaim s.time.periodsToTick with time := s.time.countTick }

/-- TICK (R21). -/
def execTick (s : State) : Result := .next s.takeTick

/-- A reference clock period that is no tick: divider count (R21) and claim timer (R203) advance. -/
def State.countPeriod (s : State) : State :=
  { s.countClaim 1 with time := { s.time with dividerCount := s.time.dividerCount + 1 } }

/-- One reference clock period (R21): the divider count increments; the period in which it reaches
the divider is a tick. No period passes before the claim timeout that is due. This is the step on an empty
queue (log entry 1); MARK is sampled in it at the level it had, for a change of level is a command of its
own (log entry 12). -/
def State.refclkPeriod (s : State) : State :=
  if s.mode = .starting then s
  else if s.time.dividerCount + 1 < s.time.divider then
    if s.claimDue then s else s.countPeriod
  else s.takeTick

/-! ### Entry events -/

/-- ENTRY_DEADLINE (R56): an OPEN entry becomes OVERDUE. -/
def execEntryDeadline (slot : SlotIndex) (tag : Tag) (s : State) : Result :=
  .next <|
    match s.findEntry slot tag with
    | none => s
    | some e =>
      if e.deadlineDue s.time.tick then s.updEntry e.key fun e => { e with state := .overdue } else s

/-- The loss of an entry (R57, R82): losts credited, the tag pushed, the partner's part, the removal. -/
def State.loseEntry (s : State) (e : Entry) : State :=
  let s1 := (s.credit e.slot .losts).updSlot e.slot fun r =>
    { r with lostTags := pushLostTag r.lostTags e.tag }
  (s1.releasePartner e).removeEntry e

/-- ENTRY_LOSS (R57, R58). -/
def execEntryLoss (slot : SlotIndex) (tag : Tag) (s : State) : Result :=
  .next <|
    match s.findEntry slot tag with
    | none => s
    | some e => if e.lossDue s.time.tick then s.loseEntry e else s

/-- The expiry of a HELD entry's twin window (R80): the entry is removed STRAGGLE-closed, its partner
is unpaired and straggled, the partner slot's straggles counter is credited, and a STRAGGLE condition
is raised against the partner's slot. -/
def State.expireTwin (s : State) (e : Entry) : State :=
  let s1 := s.removeEntry e
  match e.partner with
  | none => s1
  | some k =>
    let s2 := s1.updEntry k fun p => { p.unpair with straggled := true }
    (s2.credit k.slot .straggles).raiseVerdict k.slot .straggle 0 (some (s.slotAddr e.slot))
      (some e.tag)

/-- TWIN_WINDOW_EXPIRY (R80). -/
def execTwinWindowExpiry (slot : SlotIndex) (tag : Tag) (s : State) : Result :=
  .next <|
    match s.findEntry slot tag with
    | none => s
    | some e => if e.expiryDue s.time.tick then s.expireTwin e else s

/-- PROBE_DEADLINE (R153): the probe in flight ends NO_ANSWER at its entry's deadline. -/
def execProbeDeadline (s : State) : Result :=
  .next <|
    match s.engine.inFlight with
    | none => s
    | some p =>
      match s.findEntry p.slot p.tag with
      | none => s
      | some e => if e.probeDue s.time.tick then s.endProbe p .noAnswer none else s

/-! ### Boundary, MARK, service -/

/-- NATURAL_BOUNDARY (R25, R26): taken when the window counter has reached the active length. -/
def execNaturalBoundary (turns : List SlotIndex) (s : State) : Result :=
  .next <| if s.mode ≠ .starting ∧ s.boundaryDue = true then s.boundary turns else s

/-- MARK_EDGE (R29): not sampled in STARTING. -/
def execMarkEdge (level : Bool) (orders : EdgeOrders) (s : State) : Result :=
  .next <| if s.mode = .starting then s else s.takeMark level orders

/-- PROBE_SERVICE (R151). -/
def execProbeService (s : State) : Result :=
  .next <| if s.serviceDue then s.serviceScan (serviceOrder s.engine.pointer) else s

end Sys2Proof.Machine
end

