-- ==== Sys2Proof/Machine/StartUp.lean ====
section
/-! DEFINITION. Resets, start-up, the claim timer, claim and release, the soft reset, and the
configuration store (chapter 10). -/

namespace Sys2Proof.Machine

/-! ### Power-on and line reset (R200) -/

/-- The store as a power-on or line reset leaves it (R209, R212): a write under way is cut short and
leaves a bad image; image and write count otherwise stand. -/
def ConfigStore.afterReset (c : ConfigStore) : ConfigStore :=
  { c with
    image := if c.writing.isSome then { c.image with complete := false } else c.image
    writing := none }

/-- Every block at its power-on or line reset value (R200), for a start with the given cause and END
level; with RST_N low the monitor is then held in reset. -/
def State.hardReset (s : State) (cause : StartCause) (lines : ResetLines) : State :=
  { trunk := Trunk.afterReset s.trunk.upHeld s.trunk.downHeld lines.endLevel
    time := TimeBase.afterReset StoredItems.default false
    table := []
    slots := Vector.replicate 32 (SlotRecord.loaded SlotConfig.default)
    policy := { active := StoredItems.default.policies, staged := StoredItems.default.policies }
    engine := ProbeEngine.afterReset StoredItems.default
    report := ReportUnit.afterReset
    mgmt := Management.afterReset StoredItems.default cause lines.rstLow
    store := s.store.afterReset
    pending := s.pending }

/-- POWER_ON_RESET (R200): STARTING begins at once, or at the release of an RST_N that is low. -/
def execPowerOnReset (lines : ResetLines) (s : State) : Result :=
  .next (s.hardReset .power lines)

/-- RST_N released (R200): STARTING begins, and samples END (R201). The cause stands: POWER for the first
start after the supplies came up, else LINE. -/
def State.releaseReset (s : State) (endLevel : Bool) : State :=
  { s with
    trunk := { s.trunk with endStrap := endLevel }
    mgmt := { s.mgmt with resetHeld := false } }

/-- LINE_RESET (R200): RST_N, high, driven low resets every block and holds it; RST_N, low, released lets
STARTING begin. -/
def execLineReset (lines : ResetLines) (s : State) : Result :=
  .next <|
    if lines.rstLow = s.mgmt.resetHeld then s
    else if lines.rstLow then s.hardReset .line lines
    else s.releaseReset lines.endLevel

/-! ### The load (R201, R202) -/

/-- A class profile within its ranges (R190). -/
def ClassProfile.inRange (p : ClassProfile) : Bool :=
  decide (1 ≤ p.deadline) && decide (p.deadline ≤ 65535) && decide (p.grace ≤ 65535)
    && decide (1 ≤ p.twinWindow) && decide (p.twinWindow ≤ 65535)

/-- A policy set within its ranges (R123). -/
def PolicySet.inRange (p : PolicySet) : Bool :=
  decide (1 ≤ p.missThreshold) && decide (p.missThreshold ≤ 255)
    && decide (1 ≤ p.lateThreshold) && decide (p.lateThreshold ≤ 255)
    && decide (1 ≤ p.strayThreshold) && decide (p.strayThreshold ≤ 255)
    && decide (1 ≤ p.confirmWindows) && decide (p.confirmWindows ≤ 15)
    && decide (1 ≤ p.probationWindows) && decide (p.probationWindows ≤ 15)
    && decide (p.quietGap ≤ 15)

/-- The configuration of slot `i` within its ranges (R86, R87). -/
def SlotConfig.inRange (i : SlotIndex) (c : SlotConfig) : Bool :=
  decide (1 ≤ c.ceiling) && decide (c.ceiling ≤ 255) && decide (1 ≤ c.rampStart)
    && decide (c.rampStart ≤ c.ceiling) && decide (1 ≤ c.rampStep) && decide (c.rampStep ≤ 255)
    && (decide (c.divisor = 1) || decide (c.divisor = 4) || decide (c.divisor = 16)
        || decide (c.divisor = 64))
    && !decide (c.standIn = some i) && !decide (c.twin = some i)

/-- A tick divider is 50, 500 or 5000 (R22). -/
def dividerInRange (d : Nat) : Bool := decide (d = 50) || decide (d = 500) || decide (d = 5000)

/-- The timing settings within their ranges (R189). -/
def timingInRange (divider windowLength postscale quietPeriod recoveryPeriod claimTimeout : Nat) : Bool :=
  dividerInRange divider && decide (10 ≤ windowLength) && decide (windowLength ≤ 65535)
    && decide (postscale ≤ 255) && decide (quietPeriod ≤ 255) && decide (1 ≤ recoveryPeriod)
    && decide (recoveryPeriod ≤ 255) && decide (1 ≤ claimTimeout) && decide (claimTimeout ≤ 255)

/-- Every field of the stored items lies within the range its parameter allows (R202). -/
def StoredItems.inRange (c : StoredItems) : Bool :=
  c.profiles.toList.all ClassProfile.inRange && c.policies.toList.all PolicySet.inRange
    && (allSlots.all fun i => (c.slots[i]).inRange i)
    && timingInRange c.divider c.windowLength c.postscale c.quietPeriod c.recoveryPeriod c.claimTimeout
    && decide (c.watchBase ≤ 224)

/-- The image is good (R202). -/
def StoreImage.good (m : StoreImage) : Bool := m.complete && m.crcGood && m.items.inRange

/-- The items a load sets: the image's if it is good, else the defaults (R201, R202). -/
def StoreImage.loadItems (m : StoreImage) : StoredItems :=
  if m.good then m.items else StoredItems.default

/-- Every stored item set in the block that holds it (R201), the staged copies equal to the active ones
(R126, R193), the slot records loaded PARKED or VACANT (R114). -/
def State.setItems (s : State) (c : StoredItems) : State :=
  { s with
    time := { s.time with
      divider := c.divider, activeLength := c.windowLength, postscale := c.postscale,
      markEnables := c.markEnables }
    slots := c.slots.map SlotRecord.loaded
    policy := { active := c.policies, staged := c.policies }
    engine := { s.engine with
      marker := c.marker, cls := c.probeClass, quietPeriod := c.quietPeriod,
      recoveryPeriod := c.recoveryPeriod }
    mgmt := { s.mgmt with
      groups := c.groups, watchBase := c.watchBase, activeProfiles := c.profiles,
      stagedProfiles := c.profiles, claimTimeout := c.claimTimeout } }

/-- The ARRIVAL cause of a start (R200). -/
def StartCause.arrival : StartCause → ArrivalCause
  | .power => .power
  | .line => .line

/-- The load outcome of an image (R202). -/
def loadOutcomeOf (good : Bool) : LoadOutcome := if good then .good else .defaulted

/-- The end of STARTING (R201): items, outcomes and STORE_BAD (R202), mode UNCLAIMED, claim timer
(R203), first MARK sample (R29), the frames begun in STARTING that still arrive (R6), ARRIVAL alert. -/
def State.finishLoad (s : State) (inputs : LoadInputs) : State :=
  let good := s.store.image.good
  let s1 := s.setItems s.store.image.loadItems
  let s2 := { s1 with
    trunk := { s1.trunk with upDiscard := inputs.upArriving, downDiscard := inputs.downArriving }
    time := { s1.time with markSample := inputs.markLevel }
    store := { s1.store with
      outcome := if good then .good else .defaulted
      loadOutcome := loadOutcomeOf good }
    mgmt := { s1.mgmt with
      mode := .unclaimed
      claimTimer := some ⟨s1.mgmt.claimTimeout, 0⟩
      flags := { s1.mgmt.flags with storeBad := !good } } }
  s2.queueAlert (.arrival s.mgmt.startCause.arrival .unclaimed s.mgmt.chain (loadOutcomeOf good)
    Config.revisionCode)

/-- STORE_LOAD_COMPLETE (R201): the event that ends STARTING, which has not begun while RST_N is low
(R200). -/
def execStoreLoadComplete (inputs : LoadInputs) (s : State) : Result :=
  .next <| if s.mode = .starting ∧ s.mgmt.resetHeld = false then s.finishLoad inputs else s

/-! ### The claim timer, CLAIM and RELEASE (R203 to R206) -/

/-- The claim timer set or stopped (R203). -/
def State.setClaimTimer (s : State) (t : Option ClaimTimer) : State :=
  { s with mgmt := { s.mgmt with claimTimer := t } }

/-- CLAIM_TIMEOUT (R203): taken in UNCLAIMED once the timer has counted its timeout. -/
def execClaimTimeout (s : State) : Result :=
  .next <| if s.claimDue then (s.setClaimTimer none).changeMode .transparent else s

/-- A PARKED slot with auto-admit on enters PROBATION at a CLAIM (R97). -/
def State.claimSlot (s : State) (i : SlotIndex) : State :=
  if (s.slot i).state = .parked ∧ (s.slot i).config.autoAdmit = true then s.enterProbation i .claim
  else s

/-- The effect of CLAIM (R204). -/
def State.claimEffect (s : State) : State :=
  if s.mode = .watching then s
  else allSlots.foldl State.claimSlot ((s.setClaimTimer none).changeMode .watching)

/-- A slot that refuses RELEASE (R206). -/
def SlotRecord.blocksRelease (r : SlotRecord) : Bool :=
  decide (r.state = .fenced) || decide (r.state = .draining) || r.fencePending

/-- The record of a watched slot at RELEASE (R97). -/
def SlotRecord.toReleased (r : SlotRecord) : SlotRecord :=
  { r with state := .parked, lostTags := [], cleanRun := 0, settling := 0, adverse := false }

/-- A slot at RELEASE (R97). -/
def State.releaseSlot (s : State) (i : SlotIndex) : State :=
  if (s.slot i).state.watched then
    (s.updSlot i SlotRecord.toReleased).queueAlert
      (.slotState (s.slotAddr i) (s.slot i).state .parked .release)
  else s

/-- The effect of an accepted RELEASE in WATCHING (R206): probe and request set, table, slots, mode. -/
def State.releaseEffect (s : State) : State :=
  (allSlots.foldl State.releaseSlot s.cancelProbe.clearRequests.emptyTable).changeMode .transparent

/-! ### The soft reset (R207) -/

/-- The time base at a soft reset (R33). A boundary that the present tick has brought due and that is not
yet taken does not occur: the window counter is 0 (log entry 30). -/
def TimeBase.softReset (t : TimeBase) : TimeBase :=
  { t with
    windowNumber := 0, windowCounter := 0, windowStart := t.tick,
    activeLength := t.latchedLength.getD t.activeLength, latchedLength := none, postscaleCount := 0 }

/-- The slot state after a soft reset, by the state before it (R115). -/
def SlotRecord.stateAfterSoft (pre : SlotRecord) : SlotState :=
  match pre.state with
  | .probation | .live | .suspect =>
    if pre.fencePending && pre.manual then .fenced else .probation
  | .draining => if pre.fencePending && pre.manual then .fenced else .parked
  | .fenced => if pre.manual then .fenced else .probation
  | .parked => .parked
  | .vacant => .vacant

/-- The record after a soft reset (R115): `pre` is the record before the RESET, `r` the one that the
cancelled probe and the emptied table leave. -/
def SlotRecord.softReset (pre r : SlotRecord) : SlotRecord :=
  let st := pre.stateAfterSoft
  { r with
    state := st
    manual := decide (st = .fenced) && pre.manual
    verdict := false
    fencePending := false
    ceiling := if st = .probation then r.config.rampStart else r.ceiling
    requestCount := 0
    settling := if st = .probation then 2 else 0
    cleanRun := 0, adverse := false, window := .zero, lastWindow := .zero, totals := .zero,
    captureCount := 0, latency := [], overflow := false, sticky := .all false, lostTags := [],
    pacing := .all 0, suppressed := .all 0, quiet := 0, sinceProbe := 0 }

/-- The report unit at a soft reset (R178): the bounce queue is kept. -/
def ReportUnit.softReset (r : ReportUnit) : ReportUnit :=
  { r with outbox := [], lostCount := 0, censusOwed := false, owedVerdicts := 0, periodVerdicts := 0 }

/-- The SLOT_STATE alert of a slot whose state changed at the soft reset (R116). -/
def State.resetAlert (before s : State) (i : SlotIndex) : State :=
  if (before.slot i).state = (s.slot i).state then s
  else s.queueAlert (.slotState (s.slotAddr i) (before.slot i).state (s.slot i).state .reset)

/-- The soft reset up to its alerts (R20, R33, R68, R115, R159, R178, R196, R197, R203): the probe is
cancelled before the table is emptied, the six sticky flags stand as they were (R186), the policy and
profile tables are kept. -/
def State.softBlocks (s : State) : State :=
  let s1 := s.cancelProbe.clearRequests.emptyTable
  { s1 with
    time := s1.time.softReset
    slots := Vector.ofFn fun i => (s.slot i).softReset (s1.slot i)
    report := s1.report.softReset
    mgmt := { s1.mgmt with
      snapshot := .cleared, flags := s.mgmt.flags, command := none,
      claimTimer :=
        if s.mode = .unclaimed then some ⟨s.mgmt.claimTimeout, 0⟩ else s.mgmt.claimTimer } }

/-- The soft reset (R207): the ARRIVAL alert with cause SOFT heads the emptied outbox, and the
SLOT_STATE alerts follow in ascending index order. -/
def State.softReset (s : State) : State :=
  let s1 := s.softBlocks
  let s2 := s1.queueAlert
    (.arrival .soft s.mgmt.mode s.mgmt.chain s.store.loadOutcome Config.revisionCode)
  allSlots.foldl (State.resetAlert s) s2

/-! ### The configuration store (R208 to R212) -/

/-- A copy of every stored item as it stands (R208, R210). -/
def State.storedItems (s : State) : StoredItems :=
  { profiles := s.mgmt.activeProfiles, policies := s.policy.active,
    slots := s.slots.map SlotRecord.config, divider := s.time.divider,
    windowLength := s.time.activeLength, postscale := s.time.postscale,
    markEnables := s.time.markEnables, quietPeriod := s.engine.quietPeriod,
    recoveryPeriod := s.engine.recoveryPeriod, marker := s.engine.marker,
    probeClass := s.engine.cls, claimTimeout := s.mgmt.claimTimeout,
    watchBase := s.mgmt.watchBase, groups := s.mgmt.groups }

/-- The end of a write from buffer `b` (R211). -/
def State.finishWrite (s : State) (b : StoredItems) (equal : Bool) : State :=
  { s with
    store := { s.store with
      image := { complete := true, crcGood := equal, items := b }
      writeCount := satAdd Config.maxWriteCount s.store.writeCount 1
      writing := none
      outcome := if equal then .good else .failed } }.setFlags fun f => { f with storeBad := !equal }

/-- STORE_WRITE_COMPLETE (R211). -/
def execStoreWriteComplete (equal : Bool) (s : State) : Result :=
  .next <|
    match s.store.writing with
    | none => s
    | some b => s.finishWrite b equal

end Sys2Proof.Machine
end

