-- ==== Sys2Proof/Machine/Operands.lean ====
section
/-! DEFINITION. The parameters of management commands: reading the fields of a payload (R198) and the
ranges of the structured ones. -/

namespace Sys2Proof.Machine

/-- The 1-byte field at an offset of the parameters. -/
def p8 (ps : List Byte) (k : Nat) : Nat := ((ps.drop k).headD 0).toNat

/-- The 2-byte field at an offset. -/
def p16 (ps : List Byte) (k : Nat) : Nat := fromBE (slice ps k 2)

/-- The 4-byte field at an offset. -/
def p32 (ps : List Byte) (k : Nat) : Nat := fromBE (slice ps k 4)

/-- A two-valued field: any byte but 0 and 1 is out of range (R198). -/
def boolField (n : Nat) : Option Bool :=
  if n = 0 then some false else if n = 1 then some true else none

/-- An optional field: its presence byte and its value; a presence byte other than 0 and 1 is out of
range, the value of an absent field is not read (R198; log entry 17). -/
def optField (presence value : Nat) : Option (Option Nat) :=
  if presence = 0 then some none else if presence = 1 then some (some value) else none

/-- A policy code (R198). -/
def policyField (n : Nat) : Option Policy :=
  if n = 0 then some .off else if n = 1 then some .report else if n = 2 then some .confirm
  else if n = 3 then some .fence else none

/-- A policy set number (R124). -/
def setField (n : Nat) : Option (Fin 4) := if h : n < 4 then some ⟨n, h⟩ else none

/-- A class number (R191). -/
def classField (n : Nat) : Option TxClass := if n < 16 then some (BitVec.ofNat 4 n) else none

/-- A fence gate (R198). -/
def gateField (n : Nat) : Option FenceGate :=
  if n = 0 then some .immediate else if n = 1 then some .boundary else none

/-- The 13 fields of a policy set, in the order of R123. -/
def parsePolicySet (ps : List Byte) (k : Nat) : Option PolicySet := do
  let stall ← policyField (p8 ps k)
  let missRun ← policyField (p8 ps (k + 1))
  let lateRun ← policyField (p8 ps (k + 2))
  let strayRun ← policyField (p8 ps (k + 3))
  let diverge ← policyField (p8 ps (k + 4))
  let straggle ← policyField (p8 ps (k + 5))
  let probeFail ← policyField (p8 ps (k + 6))
  let p : PolicySet :=
    { policies := ⟨stall, missRun, lateRun, strayRun, diverge, straggle, probeFail⟩,
      missThreshold := p8 ps (k + 7), lateThreshold := p8 ps (k + 8),
      strayThreshold := p8 ps (k + 9), confirmWindows := p8 ps (k + 10),
      probationWindows := p8 ps (k + 11), quietGap := p8 ps (k + 12) }
  if p.inRange then some p else none

/-- The 13 fields of a policy set as READ_POLICY returns them. -/
def PolicySet.bytes (p : PolicySet) : List Byte :=
  be8 p.policies.stall.code ++ be8 p.policies.missRun.code ++ be8 p.policies.lateRun.code
    ++ be8 p.policies.strayRun.code ++ be8 p.policies.diverge.code ++ be8 p.policies.straggle.code
    ++ be8 p.policies.probeFail.code ++ be8 p.missThreshold ++ be8 p.lateThreshold
    ++ be8 p.strayThreshold ++ be8 p.confirmWindows ++ be8 p.probationWindows ++ be8 p.quietGap

/-- The four fields of a class profile, in the order of R190. -/
def parseProfile (ps : List Byte) (k : Nat) : Option ClassProfile := do
  let watched ← boolField (p8 ps (k + 6))
  let p : ClassProfile :=
    { deadline := p16 ps k, grace := p16 ps (k + 2), twinWindow := p16 ps (k + 4),
      watched := watched }
  if p.inRange then some p else none

/-- The four fields of a class profile as READ_PROFILE returns them. -/
def ClassProfile.bytes (p : ClassProfile) : List Byte :=
  be16 p.deadline ++ be16 p.grace ++ be16 p.twinWindow ++ be8 (boolCode p.watched)

/-- The stand-in parameter: absent, or a slot address of the watch range other than the slot's own
(R87). -/
def State.standInField (s : State) (i : SlotIndex) (presence addr : Nat) : Option (Option SlotIndex) :=
  match optField presence addr with
  | none => none
  | some none => some none
  | some (some a) =>
    match s.slotIndex? a with
    | none => none
    | some j => if j = i then none else some (some j)

/-- The ten configuration fields of CONFIGURE_SLOT (R87), at their new values in a configuration that
keeps the twin field `twin`; the configured mark is set. -/
def State.parseConfig (s : State) (i : SlotIndex) (twin : Option SlotIndex) (ps : List Byte) :
    Option SlotConfig := do
  let policySet ← setField (p8 ps 4)
  let gate ← gateField (p8 ps 5)
  let autoRestore ← boolField (p8 ps 6)
  let standIn ← s.standInField i (p8 ps 8) (p8 ps 9)
  let digest ← optField (p8 ps 10) (p32 ps 11)
  let autoAdmit ← boolField (p8 ps 15)
  let c : SlotConfig :=
    { ceiling := p8 ps 1, rampStart := p8 ps 2, rampStep := p8 ps 3, policySet := policySet,
      gate := gate, autoRestore := autoRestore, divisor := p8 ps 7, standIn := standIn,
      probeDigest := digest.map (BitVec.ofNat 32), autoAdmit := autoAdmit, twin := none,
      configured := true }
  if c.inRange i then some { c with twin := twin } else none

/-- The settings SET_TIMING carries (R189). -/
structure TimingParams where
  divider : Nat
  windowLength : Nat
  postscale : Nat
  quietPeriod : Nat
  recoveryPeriod : Nat
  marker : BitVec 16
  probeClass : TxClass
  markEnables : MarkEnables
  claimTimeout : Nat
  deriving DecidableEq, Repr

/-- The MARK enables in one byte: bit 0 COMMIT, bit 1 SNAPSHOT, bit 2 ALIGN (R189, R198); the other
bits set are out of range (log entry 17). -/
def enablesField (n : Nat) : Option MarkEnables :=
  if n < 8 then some ⟨n.testBit 0, n.testBit 1, n.testBit 2⟩ else none

/-- The parameters of SET_TIMING in the order of R189; the probe marker is four bytes with a zero upper
half (R198). -/
def parseTiming (ps : List Byte) : Option TimingParams := do
  let cls ← classField (p8 ps 11)
  let enables ← enablesField (p8 ps 12)
  let marker := p32 ps 7
  if marker < 65536 ∧
      timingInRange (p16 ps 0) (p16 ps 2) (p8 ps 4) (p8 ps 5) (p8 ps 6) (p8 ps 13) = true then
    some { divider := p16 ps 0, windowLength := p16 ps 2, postscale := p8 ps 4,
           quietPeriod := p8 ps 5, recoveryPeriod := p8 ps 6, marker := BitVec.ofNat 16 marker,
           probeClass := cls, markEnables := enables, claimTimeout := p8 ps 13 }
  else none

end Sys2Proof.Machine
end

