-- ==== Sys2Proof/Machine/Commands.lean ====
section
/-! DEFINITION. The execution of the copy in the command buffer (R180 to R184), and the commands that
address, identify, claim, reset, configure tables and store. -/

namespace Sys2Proof.Machine

/-! ### Execution (R181, R182) -/

/-- Result codes (R183). -/
inductive ResultCode where
  | ok
  | busy
  | state
  | range
  | unknown
  deriving DecidableEq, Repr

/-- Result codes as numbers (R183). -/
def ResultCode.code : ResultCode → Nat
  | .ok => 0 | .busy => 1 | .state => 2 | .range => 3 | .unknown => 4

/-- Addressing classes of commands (R180). -/
inductive CommandClass where
  | own
  | group
  | all
  deriving DecidableEq, Repr

/-- A command of the catalogue: code, addressing class, and the sum of the widths of its parameters
(R198). -/
structure CommandForm where
  code : Byte
  cls : CommandClass
  width : Nat
  deriving DecidableEq, Repr

/-- The table of R180: is a copy that arrived so executed? -/
def CommandClass.allows : CommandClass → Addressing → Bool
  | .own, .own => true
  | .group, _ => true
  | .all, .all => true
  | _, _ => false

/-- The command code of a copy, if it has one. -/
def CommandCopy.code? (c : CommandCopy) : Option Byte := c.payload.head?

/-- The parameters of a copy. -/
def CommandCopy.params (c : CommandCopy) : List Byte := c.payload.drop 1

/-- A copy needs a reply (R181). -/
def State.needsReply (s : State) (c : CommandCopy) : Bool :=
  decide (c.arrived = .own) ||
    (decide (c.arrived = .all) && s.trunk.endStrap
      && (decide (c.code? = some 0x01) || decide (c.code? = some 0x1D)))

/-- The execution of a copy can be taken: after STARTING, and with room in the reply queue when the
copy needs a reply (R181, R199). -/
def State.canExecute (s : State) (c : CommandCopy) : Bool :=
  !decide (s.mode = .starting)
    && (!s.needsReply c || decide (s.mgmt.replyQueue.length < Config.replyCapacity))

/-- An MRP frame (R184, R198): slot field the chain address at execution, the sequence number echoed. -/
def State.replyFrame (s : State) (c : CommandCopy) (r : ResultCode) (results : List Byte) : Frame :=
  mkFrame 5 0 (s.mgmt.chain.zeroExtend 8) (c.seq.zeroExtend 32)
    (c.code?.getD 0 :: be8 r.code ++ results)

/-- A frame at the tail of the reply queue (R184). -/
def State.placeReply (s : State) (f : Frame) : State :=
  { s with mgmt := { s.mgmt with replyQueue := s.mgmt.replyQueue ++ [f] } }

/-- The command buffer emptied (R181). -/
def State.clearCommand (s : State) : State := { s with mgmt := { s.mgmt with command := none } }

/-- A copy refused at some step (R182): a reply with the result code, or, where the copy needs none,
CMD_DROPPED. -/
def State.refuseCopy (s : State) (c : CommandCopy) (r : ResultCode) : State :=
  (if s.needsReply c then s.placeReply (s.replyFrame c r []) else s.setCmdDropped).clearCommand

/-- What a command's own rule answers (R182, step 4). -/
inductive CommandResult where
  /-- The effect taken; the results of the OK reply. -/
  | done (s : State) (results : List Byte)
  /-- The effect taken; the frame that answers in place of an MRP (R172). -/
  | answer (s : State) (f : Frame)
  | refuse (r : ResultCode)
  deriving Repr

/-- The end of an execution (R182): the reply after every change of the command, the buffer empty. -/
def State.concludeCopy (s : State) (c : CommandCopy) : CommandResult → State
  | .refuse r => s.refuseCopy c r
  | .done s1 results =>
    (if s.needsReply c then s1.placeReply (s1.replyFrame c .ok results) else s1).clearCommand
  | .answer s1 f => (if s.needsReply c then s1.placeReply f else s1).clearCommand

/-- Execution of a copy of the command `k` whose own rule is `effect` (R182): addressing, length, then
the rule. -/
def State.executeCopy (s : State) (c : CommandCopy) (k : CommandForm)
    (effect : State → CommandCopy → CommandResult) : State :=
  if k.cls.allows c.arrived = false then s.refuseCopy c .state
  else if c.payload.length ≠ 1 + k.width then s.refuseCopy c .range
  else s.concludeCopy c (effect s c)

/-- The command of a row is executed when the buffer holds a copy of it that can be executed; otherwise
the event does not occur (log entry 15). -/
def State.runCommand (s : State) (k : CommandForm) (effect : State → CommandCopy → CommandResult) :
    State :=
  match s.mgmt.command with
  | none => s
  | some c =>
    if c.code? = some k.code ∧ s.canExecute c = true then s.executeCopy c k effect else s

/-- A code of the catalogue, 01h to 1Dh (R182, step 1). -/
def assignedCode (b : Byte) : Bool := decide (1 ≤ b.toNat) && decide (b.toNat ≤ 0x1D)

/-- A copy with no code, or an unassigned one (R182, step 1). -/
def CommandCopy.unassigned (c : CommandCopy) : Bool :=
  match c.code? with
  | none => true
  | some b => !assignedCode b

/-- UNKNOWN (R182, step 1). -/
def execUnknown (s : State) : Result :=
  .next <|
    match s.mgmt.command with
    | none => s
    | some c => if c.unassigned = true ∧ s.canExecute c = true then s.refuseCopy c .unknown else s

/-! ### ENUMERATE, IDENTIFY, SET_GROUPS, SET_RANGE -/

/-- The chain address that n gives (R187). -/
def addressOf (n : Nat) : ChainAddr := if 1 ≤ n ∧ n ≤ 15 then BitVec.ofNat 4 n else 0

/-- The chain address set; a change cancels a probe in flight (R156, R187), and the cancellation comes
first: an alert of the drain that it ends carries the old address (log entry 32). -/
def State.setChain (s : State) (a : ChainAddr) : State :=
  let s1 := if a = s.mgmt.chain then s else s.cancelProbe
  { s1 with mgmt := { s1.mgmt with chain := a } }

/-- The rule of ENUMERATE (R187). -/
def enumerateRule (s : State) (c : CommandCopy) : CommandResult :=
  .done (s.setChain (addressOf (p8 c.params 0))) (be8 (p8 c.params 0))

/-- ENUMERATE (R187). -/
def execEnumerate (s : State) : Result := .next (s.runCommand ⟨0x01, .all, 1⟩ enumerateRule)

/-- The 28 result bytes of IDENTIFY (R185, R198). -/
def State.identity (s : State) : List Byte :=
  be16 Config.vendorCode ++ be16 Config.partCode ++ be8 Config.revisionCode
    ++ be8 s.mgmt.chain.toNat ++ be8 s.mode.code ++ be8 (boolCode s.trunk.endStrap)
    ++ be8 s.mgmt.watchBase ++ be8 s.mgmt.groups.toNat ++ be8 (boolCode s.store.writing.isSome)
    ++ be8 s.store.outcome.code ++ be8 s.store.writeCount ++ be16 s.trunk.upErrors
    ++ be16 s.trunk.downErrors ++ be16 s.occupancy ++ be32 s.time.windowNumber.toNat
    ++ be8 s.mgmt.flags.byte ++ be32 s.time.tick.toNat

/-- The flags after IDENTIFY: cleared, TABLE_FULL set again while the table is full and STORE_BAD while
the store outcome is not GOOD (R185). -/
def State.flagsAfterIdentify (s : State) : MonitorFlags :=
  { MonitorFlags.clear with
    tableFull := !s.tableHasRoom
    storeBad := !decide (s.store.outcome = .good) }

/-- The rule of IDENTIFY (R185). -/
def identifyRule (s : State) (_ : CommandCopy) : CommandResult :=
  .done (s.setFlags fun _ => s.flagsAfterIdentify) s.identity

/-- IDENTIFY (R185). -/
def execIdentify (s : State) : Result := .next (s.runCommand ⟨0x02, .own, 0⟩ identifyRule)

/-- The rule of SET_GROUPS (R179). -/
def setGroupsRule (s : State) (c : CommandCopy) : CommandResult :=
  if p8 c.params 0 < 16 then
    .done { s with mgmt := { s.mgmt with groups := BitVec.ofNat 4 (p8 c.params 0) } } []
  else .refuse .range

/-- SET_GROUPS (R179). -/
def execSetGroups (s : State) : Result := .next (s.runCommand ⟨0x07, .own, 1⟩ setGroupsRule)

/-- The rule of SET_RANGE (R188). -/
def setRangeRule (s : State) (c : CommandCopy) : CommandResult :=
  if 224 < p8 c.params 0 then .refuse .range
  else if s.mode = .watching then .refuse .state
  else .done { s with mgmt := { s.mgmt with watchBase := p8 c.params 0 } } []

/-- SET_RANGE (R188). -/
def execSetRange (s : State) : Result := .next (s.runCommand ⟨0x06, .own, 1⟩ setRangeRule)

/-! ### CLAIM, RELEASE, RESET, STORE -/

/-- The rule of CLAIM (R204). -/
def claimRule (s : State) (_ : CommandCopy) : CommandResult := .done s.claimEffect []

/-- CLAIM (R204). -/
def execClaim (s : State) : Result := .next (s.runCommand ⟨0x03, .group, 0⟩ claimRule)

/-- The rule of RELEASE (R206). -/
def releaseRule (s : State) (_ : CommandCopy) : CommandResult :=
  if s.mode = .watching then
    if (allSlots.any fun i => (s.slot i).blocksRelease) then .refuse .state
    else .done s.releaseEffect []
  else .done s []

/-- RELEASE (R206). -/
def execRelease (s : State) : Result := .next (s.runCommand ⟨0x04, .group, 0⟩ releaseRule)

/-- The rule of RESET (R207). -/
def resetRule (s : State) (_ : CommandCopy) : CommandResult := .done s.softReset []

/-- RESET (R207). -/
def execReset (s : State) : Result := .next (s.runCommand ⟨0x05, .group, 0⟩ resetRule)

/-- The rule of STORE (R210). -/
def storeRule (s : State) (_ : CommandCopy) : CommandResult :=
  if s.store.writing.isSome then .refuse .busy
  else .done { s with store := { s.store with writing := some s.storedItems } } []

/-- STORE (R210). -/
def execStore (s : State) : Result := .next (s.runCommand ⟨0x1C, .group, 0⟩ storeRule)

/-! ### SET_TIMING, profiles, policies, COMMIT -/

/-- The divider count after SET_TIMING: 0 when the divider changes (R22), else as it stands. -/
def TimeBase.countAfterTiming (t : TimeBase) (divider : Nat) : Nat :=
  if divider = t.divider then t.dividerCount else 0

/-- The fields of SET_TIMING set with their effects (R22, R27, R28, R189). -/
def State.setTiming (s : State) (p : TimingParams) : State :=
  { s with
    time := { s.time with
      divider := p.divider
      dividerCount := s.time.countAfterTiming p.divider
      latchedLength := some p.windowLength
      postscale := p.postscale
      postscaleCount := 0
      markEnables := p.markEnables }
    engine := { s.engine with
      quietPeriod := p.quietPeriod, recoveryPeriod := p.recoveryPeriod, marker := p.marker,
      cls := p.probeClass }
    mgmt := { s.mgmt with claimTimeout := p.claimTimeout } }

/-- The rule of SET_TIMING (R22, R189). -/
def setTimingRule (s : State) (c : CommandCopy) : CommandResult :=
  match parseTiming c.params with
  | none => .refuse .range
  | some p =>
    if s.mode = .watching ∧ p.divider ≠ s.time.divider then .refuse .state
    else .done (s.setTiming p) []

/-- SET_TIMING (R189). -/
def execSetTiming (s : State) : Result := .next (s.runCommand ⟨0x08, .group, 14⟩ setTimingRule)

/-- The rule of WRITE_PROFILE (R191). -/
def writeProfileRule (s : State) (c : CommandCopy) : CommandResult :=
  match classField (p8 c.params 0), parseProfile c.params 1 with
  | some cls, some p =>
    .done { s with mgmt := { s.mgmt with
      stagedProfiles := s.mgmt.stagedProfiles.set cls.toNat p cls.isLt } } []
  | _, _ => .refuse .range

/-- WRITE_PROFILE (R191). -/
def execWriteProfile (s : State) : Result := .next (s.runCommand ⟨0x09, .group, 8⟩ writeProfileRule)

/-- The rule of READ_PROFILE (R191): copy 0 is active, 1 staged (R198). -/
def readProfileRule (s : State) (c : CommandCopy) : CommandResult :=
  match classField (p8 c.params 0), boolField (p8 c.params 1) with
  | some cls, some staged =>
    let t := if staged then s.mgmt.stagedProfiles else s.mgmt.activeProfiles
    .done s (t[cls.toNat]'cls.isLt).bytes
  | _, _ => .refuse .range

/-- READ_PROFILE (R191). -/
def execReadProfile (s : State) : Result := .next (s.runCommand ⟨0x0A, .own, 2⟩ readProfileRule)

/-- The rule of WRITE_POLICY (R124). -/
def writePolicyRule (s : State) (c : CommandCopy) : CommandResult :=
  match setField (p8 c.params 0), parsePolicySet c.params 1 with
  | some n, some p =>
    .done { s with policy := { s.policy with staged := s.policy.staged.set n p } } []
  | _, _ => .refuse .range

/-- WRITE_POLICY (R124). -/
def execWritePolicy (s : State) : Result := .next (s.runCommand ⟨0x0B, .group, 14⟩ writePolicyRule)

/-- The rule of READ_POLICY (R124). -/
def readPolicyRule (s : State) (c : CommandCopy) : CommandResult :=
  match setField (p8 c.params 0), boolField (p8 c.params 1) with
  | some n, some staged =>
    let t := if staged then s.policy.staged else s.policy.active
    .done s t[n].bytes
  | _, _ => .refuse .range

/-- READ_POLICY (R124). -/
def execReadPolicy (s : State) : Result := .next (s.runCommand ⟨0x0C, .own, 2⟩ readPolicyRule)

/-- The rule of COMMIT (R192). -/
def commitRule (s : State) (_ : CommandCopy) : CommandResult := .done s.commitTables []

/-- COMMIT (R192). -/
def execCommit (s : State) : Result := .next (s.runCommand ⟨0x0D, .group, 0⟩ commitRule)

/-! ### SNAPSHOT and CENSUS_QUERY -/

/-- The rule of SNAPSHOT (R195). -/
def snapshotRule (s : State) (_ : CommandCopy) : CommandResult := .done (s.takeSnapshot .command) []

/-- SNAPSHOT (R195). -/
def execSnapshot (s : State) : Result := .next (s.runCommand ⟨0x18, .group, 0⟩ snapshotRule)

/-- The rule of CENSUS_QUERY (R172): the answer is the CEN frame, which only the end-of-chain monitor's
copy, needing a reply, places. -/
def censusQueryRule (s : State) (c : CommandCopy) : CommandResult :=
  .answer s (mkFrame 7 0 0 0 (s.originCen c.seq).payload)

/-- CENSUS_QUERY (R172). -/
def execCensusQuery (s : State) : Result := .next (s.runCommand ⟨0x1D, .all, 0⟩ censusQueryRule)

end Sys2Proof.Machine
end

