-- ==== Sys2Proof/Machine/SlotCommands.lean ====
section
/-! DEFINITION. The management commands that carry a slot address, and PROBE_RESULT (chapters 4 to 7,
9). -/

namespace Sys2Proof.Machine

/-- A rule whose first parameter is a slot address, refused with RANGE outside the watch range. -/
def slotRule (rule : State → SlotIndex → CommandCopy → CommandResult) (s : State) (c : CommandCopy) :
    CommandResult :=
  match s.slotIndex? (p8 c.params 0) with
  | none => .refuse .range
  | some i => rule s i c

/-- VACANT or PARKED, the states outside the watch. -/
def SlotState.unwatched (st : SlotState) : Bool := !st.watched

/-! ### ADMIT, PARK, FENCE, UNFENCE, VACATE -/

/-- The rule of ADMIT (R92). -/
def admitRule (s : State) (i : SlotIndex) (_ : CommandCopy) : CommandResult :=
  if s.mode ≠ .watching then .refuse .state
  else if (s.slot i).state.unwatched = false then .refuse .state
  else .done (s.enterProbation i .command) []

/-- ADMIT (R92). -/
def execAdmitSlot (s : State) : Result := .next (s.runCommand ⟨0x0E, .own, 1⟩ (slotRule admitRule))

/-- PARK of a slot in an accepting state (R93): PARKED when it holds no entry and no fence is pending,
else DRAINING. -/
def State.parkAccepting (s : State) (i : SlotIndex) : State :=
  if (s.slot i).noEntry = true ∧ (s.slot i).fencePending = false then s.enterParked i .command
  else s.changeState i .draining .command

/-- PARK of a FENCED slot without a PROBE entry (R94). -/
def State.parkFenced (s : State) (i : SlotIndex) : State :=
  (s.updSlot i fun r => { r with manual := false, verdict := false, fencePending := false }).enterParked
    i .command

/-- The rule of PARK (R93, R94). -/
def parkRule (s : State) (i : SlotIndex) (_ : CommandCopy) : CommandResult :=
  match (s.slot i).state with
  | .vacant => .refuse .state
  | .parked => .done s []
  | .draining => .done s []
  | .probation | .live | .suspect => .done (s.parkAccepting i) []
  | .fenced => if (s.slot i).probeEntry then .refuse .busy else .done (s.parkFenced i) []

/-- PARK (R93). -/
def execPark (s : State) : Result := .next (s.runCommand ⟨0x0F, .own, 1⟩ (slotRule parkRule))

/-- The rule of FENCE (R136). -/
def fenceRule (s : State) (i : SlotIndex) (_ : CommandCopy) : CommandResult :=
  if (s.slot i).state.unwatched then .refuse .state else .done (s.setManual i) []

/-- FENCE (R136). -/
def execFence (s : State) : Result := .next (s.runCommand ⟨0x10, .own, 1⟩ (slotRule fenceRule))

/-- Both sources and the pending fence cleared (R137). -/
def SlotRecord.clearFence (r : SlotRecord) : SlotRecord :=
  { r with manual := false, verdict := false, fencePending := false }

/-- The rule of UNFENCE (R137). -/
def unfenceRule (s : State) (i : SlotIndex) (_ : CommandCopy) : CommandResult :=
  match (s.slot i).state with
  | .fenced => .done (s.enterProbation i .command) []
  | .probation | .live | .suspect =>
    if (s.slot i).fencePending then .done (s.updSlot i SlotRecord.clearFence) [] else .refuse .state
  | .draining =>
    if (s.slot i).fencePending then .done ((s.updSlot i SlotRecord.clearFence).settleDrain i) []
    else .refuse .state
  | .parked | .vacant => .refuse .state

/-- UNFENCE (R137). -/
def execUnfence (s : State) : Result := .next (s.runCommand ⟨0x11, .own, 1⟩ (slotRule unfenceRule))

/-- The record VACATE leaves (R96): default configuration, the ramp start of which is the current
ceiling, and every figure cleared; the entry figures stand (the slot holds no entry). -/
def SlotRecord.vacated (r : SlotRecord) : SlotRecord :=
  { SlotRecord.loaded SlotConfig.default with
    requestCount := r.requestCount, probeEntry := r.probeEntry }

/-- The twin of a vacated slot loses its twin field (R72). -/
def State.dropTwinOf (s : State) (i : SlotIndex) : State :=
  match (s.slot i).config.twin with
  | none => s
  | some j => s.updSlot j fun r => { r with config := { r.config with twin := none } }

/-- The effect of VACATE (R96). -/
def State.vacateEffect (s : State) (i : SlotIndex) : State :=
  let s1 := (s.dropTwinOf i).updSlot i SlotRecord.vacated
  if (s.slot i).state = .vacant then s1
  else s1.queueAlert (.slotState (s.slotAddr i) (s.slot i).state .vacant .command)

/-- The rule of VACATE (R96). -/
def vacateRule (s : State) (i : SlotIndex) (_ : CommandCopy) : CommandResult :=
  match (s.slot i).state with
  | .probation | .live | .suspect | .draining => .refuse .state
  | .parked | .fenced => if (s.slot i).noEntry then .done (s.vacateEffect i) [] else .refuse .busy
  | .vacant => .done (s.vacateEffect i) []

/-- VACATE (R96). -/
def execVacate (s : State) : Result := .next (s.runCommand ⟨0x12, .own, 1⟩ (slotRule vacateRule))

/-! ### PAIR, UNPAIR, CONFIGURE_SLOT -/

/-- The twin field of a record set. -/
def SlotRecord.setTwin (r : SlotRecord) (t : Option SlotIndex) : SlotRecord :=
  { r with config := { r.config with twin := t } }

/-- The configured mark of a record set. -/
def SlotRecord.markConfigured (r : SlotRecord) : SlotRecord :=
  { r with config := { r.config with configured := true } }

/-- The effect of PAIR (R70). -/
def State.pairEffect (s : State) (i j : SlotIndex) : State :=
  (s.updSlot i fun r => (r.setTwin (some j)).markConfigured).updSlot j fun r =>
    (r.setTwin (some i)).markConfigured

/-- The rule of PAIR: its four checks in order (R70). -/
def pairRule (s : State) (i : SlotIndex) (c : CommandCopy) : CommandResult :=
  match s.slotIndex? (p8 c.params 1) with
  | none => .refuse .range
  | some j =>
    if i = j then .refuse .range
    else if (s.slot i).state.unwatched = false ∨ (s.slot j).state.unwatched = false then .refuse .state
    else if (s.slot i).config.twin.isSome = true ∨ (s.slot j).config.twin.isSome = true then
      .refuse .state
    else .done (s.pairEffect i j) []

/-- PAIR (R70). -/
def execPair (s : State) : Result := .next (s.runCommand ⟨0x13, .own, 2⟩ (slotRule pairRule))

/-- The rule of UNPAIR (R71). -/
def unpairRule (s : State) (i : SlotIndex) (_ : CommandCopy) : CommandResult :=
  match (s.slot i).config.twin with
  | none => .refuse .state
  | some j =>
    if (s.slot i).state.unwatched = false ∨ (s.slot j).state.unwatched = false then .refuse .state
    else .done ((s.updSlot i fun r => r.setTwin none).updSlot j fun r => r.setTwin none) []

/-- UNPAIR (R71). -/
def execUnpair (s : State) : Result := .next (s.runCommand ⟨0x14, .own, 1⟩ (slotRule unpairRule))

/-- A record with a new configuration (R87, R98): the current ceiling adjusted, the capture counter back
to 0 when the divisor changes. -/
def SlotRecord.configure (r : SlotRecord) (c : SlotConfig) : SlotRecord :=
  { r with
    config := c
    ceiling :=
      if r.state = .live ∨ r.state = .suspect then c.ceiling else min r.ceiling c.ceiling
    captureCount := if c.divisor = r.config.divisor then r.captureCount else 0 }

/-- The rule of CONFIGURE_SLOT (R87). -/
def configureRule (s : State) (i : SlotIndex) (c : CommandCopy) : CommandResult :=
  match s.parseConfig i (s.slot i).config.twin c.params with
  | none => .refuse .range
  | some cfg => .done (s.updSlot i fun r => r.configure cfg) []

/-- CONFIGURE_SLOT (R87). -/
def execConfigureSlot (s : State) : Result :=
  .next (s.runCommand ⟨0x15, .own, 16⟩ (slotRule configureRule))

/-! ### SLOT_STATUS, READ_SAMPLE, READ_SNAPSHOT -/

/-- The fence sources in one byte: bit 0 MANUAL, bit 1 VERDICT (R198). -/
def SlotRecord.sourceByte (r : SlotRecord) : Nat := boolCode r.manual + 2 * boolCode r.verdict

/-- The figures of SLOT_STATUS, in the order of R108. -/
def State.slotFigures (s : State) (i : SlotIndex) : List Byte :=
  let r := s.slot i
  be8 (s.slotAddr i) ++ be8 r.state.code ++ be8 r.sourceByte ++ be8 (boolCode r.fencePending)
    ++ be8 r.config.ceiling ++ be8 r.ceiling ++ be16 r.requestCount ++ be8 (boolCode r.probeEntry)
    ++ be16 (s.oldestAge i) ++ be8 r.cleanRun ++ be8 r.settling ++ r.lastWindow.bytes2
    ++ r.totals.bytes4 ++ be8 r.latency.length ++ be8 (boolCode r.overflow)
    ++ be8 r.lostTags.length ++ be8 r.sticky.flagByte ++ be8 r.lastProbe.code

/-- The rule of SLOT_STATUS (R108): the figures, then the sticky condition flags cleared. -/
def slotStatusRule (s : State) (i : SlotIndex) (_ : CommandCopy) : CommandResult :=
  .done (s.updSlot i fun r => { r with sticky := .all false }) (s.slotFigures i)

/-- SLOT_STATUS (R108). -/
def execSlotStatus (s : State) : Result :=
  .next (s.runCommand ⟨0x16, .own, 1⟩ (slotRule slotStatusRule))

/-- The record after a read of its oldest sample, `rest` being the samples left (R106). -/
def SlotRecord.afterRead (r : SlotRecord) (rest : List Sample) : SlotRecord :=
  { r with latency := rest, overflow := r.overflow && !rest.isEmpty }

/-- The rule of READ_SAMPLE (R106): presence byte, sample, overflow flag before the read, samples left;
or EMPTY and the overflow flag (log entry 16). -/
def readSampleRule (s : State) (i : SlotIndex) (_ : CommandCopy) : CommandResult :=
  let r := s.slot i
  match r.latency with
  | [] => .done s (be8 0 ++ be16 0 ++ be8 0 ++ be8 0 ++ be8 (boolCode r.overflow))
  | x :: rest =>
    .done (s.updSlot i fun r => r.afterRead rest)
      (be8 1 ++ be16 x.latency ++ be8 x.cls.toNat ++ be8 (boolCode x.late)
        ++ be8 (boolCode r.overflow) ++ be8 rest.length)

/-- READ_SAMPLE (R106). -/
def execReadSample (s : State) : Result :=
  .next (s.runCommand ⟨0x17, .own, 1⟩ (slotRule readSampleRule))

/-- The header of the snapshot table (R194). -/
def SnapshotTable.headerBytes (t : SnapshotTable) : List Byte :=
  be8 t.cause.code ++ be32 t.windowNumber.toNat ++ be32 t.tick.toNat

/-- A snapshot record (R194). -/
def SnapshotRecord.bytes (r : SnapshotRecord) : List Byte :=
  be8 r.state.code ++ be16 r.requestCount ++ be16 r.oldestAge ++ r.lastWindow.bytes2
    ++ r.totals.bytes4

/-- The rule of READ_SNAPSHOT (R195): header, record, slot address (log entry 16). -/
def readSnapshotRule (s : State) (i : SlotIndex) (_ : CommandCopy) : CommandResult :=
  .done s (s.mgmt.snapshot.headerBytes ++ (s.mgmt.snapshot.records[i]).bytes ++ be8 (s.slotAddr i))

/-- READ_SNAPSHOT (R195). -/
def execReadSnapshot (s : State) : Result :=
  .next (s.runCommand ⟨0x19, .own, 1⟩ (slotRule readSnapshotRule))

/-! ### PROBE and PROBE_RESULT -/

/-- An optional tag (R198). -/
def optTagBytes (t : Option Tag) : List Byte := optionalField be32 (t.map BitVec.toNat)

/-- The rule of PROBE after its checks (R148): a launch, or, the table full, the slot's place in the
request set with origin COMMAND. -/
def State.commandProbe (s : State) (i : SlotIndex) : CommandResult :=
  if s.tableHasRoom then .done (s.launch i .command) (optTagBytes (some (s.launchTag i)))
  else .done (s.setRequest i (some .command)) (optTagBytes none)

/-- The rule of PROBE: its checks in order (R148). -/
def probeRule (s : State) (i : SlotIndex) (_ : CommandCopy) : CommandResult :=
  if s.mode ≠ .watching then .refuse .state
  else if (s.slot i).eligible .command = false then .refuse .state
  else if s.engine.idle = false then .refuse .busy
  else s.commandProbe i

/-- PROBE (R148). -/
def execProbe (s : State) : Result := .next (s.runCommand ⟨0x1A, .own, 1⟩ (slotRule probeRule))

/-- The in-flight fields of PROBE_RESULT, each an optional field (R155, R198; log entry 16). -/
def State.inFlightBytes (s : State) : List Byte :=
  let p := s.engine.inFlight
  optionalField be8 (p.map InFlight.addr) ++ optTagBytes (p.map InFlight.tag)
    ++ optionalField be8 (p.map fun p => p.origin.code)
    ++ optionalField be16 (p.map fun p => tickAge16 s.time.tick p.launch)

/-- Slot address, tag and origin of the last result, each an optional field (R155, R198; log entry 16). -/
def LastResult.probeBytes (l : LastResult) : List Byte :=
  optionalField be8 (l.probe.map ProbeIdentity.addr) ++ optTagBytes (l.probe.map ProbeIdentity.tag)
    ++ optionalField be8 (l.probe.map fun p => p.origin.code)

/-- Latency and digest of the last result, two optional fields (R144, R155, R198). -/
def LastResult.answerBytes (l : LastResult) : List Byte :=
  optionalField be16 (l.answer.map ProbeAnswer.latency)
    ++ optionalField be32 (l.answer.map fun a => a.digest.toNat)

/-- The fields of PROBE_RESULT, in the order of R155. -/
def State.probeFigures (s : State) : List Byte :=
  be8 (boolCode (!s.engine.idle)) ++ s.inFlightBytes ++ be8 s.requestCount
    ++ s.engine.last.probeBytes ++ be8 s.engine.last.outcome.code ++ s.engine.last.answerBytes
    ++ be8 (boolCode s.engine.last.fresh) ++ be16 s.engine.stale ++ be16 s.engine.seq.toNat

/-- The rule of PROBE_RESULT (R155): the fields, then the fresh flag cleared. -/
def probeResultRule (s : State) (_ : CommandCopy) : CommandResult :=
  .done { s with engine := { s.engine with last := { s.engine.last with fresh := false } } }
    s.probeFigures

/-- PROBE_RESULT (R155). -/
def execProbeResult (s : State) : Result := .next (s.runCommand ⟨0x1B, .own, 0⟩ probeResultRule)

end Sys2Proof.Machine
end

