-- ==== Sys2Proof/Machine/Dispatch.lean ====
section
/-! DEFINITION. One arm per command: its effect on everything but the queue. -/

namespace Sys2Proof.Machine

def exec (i : Instr) (s : State) : Host.Outcome State Fault Refusal :=
  match i with
  | .powerOnReset lines => Sys2Proof.Machine.execPowerOnReset lines s
  | .lineReset lines => Sys2Proof.Machine.execLineReset lines s
  | .storeLoadComplete inputs => Sys2Proof.Machine.execStoreLoadComplete inputs s
  | .claimTimeout => Sys2Proof.Machine.execClaimTimeout s
  | .frameComplete port bytes => Sys2Proof.Machine.execFrameComplete port bytes s
  | .frameOverrun port => Sys2Proof.Machine.execFrameOverrun port s
  | .takeUpFrame => Sys2Proof.Machine.execTakeUpFrame s
  | .takeDownFrame removed judged => Sys2Proof.Machine.execTakeDownFrame removed judged s
  | .upTransmitBegin => Sys2Proof.Machine.execUpTransmitBegin s
  | .downTransmitBegin => Sys2Proof.Machine.execDownTransmitBegin s
  | .tick => Sys2Proof.Machine.execTick s
  | .entryDeadline slot tag => Sys2Proof.Machine.execEntryDeadline slot tag s
  | .entryLoss slot tag => Sys2Proof.Machine.execEntryLoss slot tag s
  | .twinWindowExpiry slot tag => Sys2Proof.Machine.execTwinWindowExpiry slot tag s
  | .probeDeadline => Sys2Proof.Machine.execProbeDeadline s
  | .naturalBoundary turns => Sys2Proof.Machine.execNaturalBoundary turns s
  | .markEdge level orders => Sys2Proof.Machine.execMarkEdge level orders s
  | .probeService => Sys2Proof.Machine.execProbeService s
  | .storeWriteComplete equal => Sys2Proof.Machine.execStoreWriteComplete equal s
  | .enumerate => Sys2Proof.Machine.execEnumerate s
  | .identify => Sys2Proof.Machine.execIdentify s
  | .claim => Sys2Proof.Machine.execClaim s
  | .release => Sys2Proof.Machine.execRelease s
  | .reset => Sys2Proof.Machine.execReset s
  | .setRange => Sys2Proof.Machine.execSetRange s
  | .setGroups => Sys2Proof.Machine.execSetGroups s
  | .setTiming => Sys2Proof.Machine.execSetTiming s
  | .writeProfile => Sys2Proof.Machine.execWriteProfile s
  | .readProfile => Sys2Proof.Machine.execReadProfile s
  | .writePolicy => Sys2Proof.Machine.execWritePolicy s
  | .readPolicy => Sys2Proof.Machine.execReadPolicy s
  | .commit => Sys2Proof.Machine.execCommit s
  | .admitSlot => Sys2Proof.Machine.execAdmitSlot s
  | .park => Sys2Proof.Machine.execPark s
  | .fence => Sys2Proof.Machine.execFence s
  | .unfence => Sys2Proof.Machine.execUnfence s
  | .vacate => Sys2Proof.Machine.execVacate s
  | .pair => Sys2Proof.Machine.execPair s
  | .unpair => Sys2Proof.Machine.execUnpair s
  | .configureSlot => Sys2Proof.Machine.execConfigureSlot s
  | .slotStatus => Sys2Proof.Machine.execSlotStatus s
  | .readSample => Sys2Proof.Machine.execReadSample s
  | .snapshot => Sys2Proof.Machine.execSnapshot s
  | .readSnapshot => Sys2Proof.Machine.execReadSnapshot s
  | .probe => Sys2Proof.Machine.execProbe s
  | .probeResult => Sys2Proof.Machine.execProbeResult s
  | .store => Sys2Proof.Machine.execStore s
  | .censusQuery => Sys2Proof.Machine.execCensusQuery s
  | .unknown => Sys2Proof.Machine.execUnknown s
  | .partnerHoldChange port asserted => Sys2Proof.Machine.execPartnerHoldChange port asserted s
  | .transmitEnd port => Sys2Proof.Machine.execTransmitEnd port s

end Sys2Proof.Machine
end

