-- ==== Sys2Proof/Machine/Step.lean ====
section
/-! DEFINITION. One step: the command at the front of the queue, or, on an empty queue, one reference
clock period (log entry 1). -/

namespace Sys2Proof.Machine

/-- The step of the block. -/
def step (s : State) : Host.Outcome State Fault Refusal :=
  match s.pending with
  | [] => .next s.refclkPeriod
  | c :: rest => exec c { s with pending := rest }

/-- The state with the command that a word of the table spells put at the front of its queue; no word
spells one (Decode.lean). -/
def State.withFetchWord (s : State) (nbits w : Nat) : State :=
  match decodeTableWord nbits w with
  | none => s
  | some c => { s with pending := c :: s.pending }

end Sys2Proof.Machine
end

