-- ==== Sys2Proof/Safety.lean ====
section
/-! DEFINITION. What a state of a real monitor satisfies: the capacities of 00_scope.md, and the quiet
of every tracking block outside WATCHING; and the words the statements use for the end of a management
command. -/

namespace Sys2Proof.Machine

/-- No queue or table holds more than its capacity (00_scope.md, Fixed capacities). -/
structure State.WithinCapacity (s : State) : Prop where
  desc : s.trunk.descBuffer.length ≤ Config.throughCapacity
  asc : s.trunk.ascBuffer.length ≤ Config.throughCapacity
  outbox : s.report.outbox.length ≤ Config.outboxCapacity
  bounce : s.report.bounceQueue.length ≤ Config.bounceCapacity
  reply : s.mgmt.replyQueue.length ≤ Config.replyCapacity
  table : s.table.length ≤ Config.tableCapacity
  latency : ∀ i, (s.slot i).latency.length ≤ Config.latencyCapacity
  lostTags : ∀ i, (s.slot i).lostTags.length ≤ Config.lostTagCapacity

/-- Outside WATCHING the pending table is empty (R35), every slot is VACANT or PARKED (R89), the probe
engine is IDLE and its request set is empty (R204). -/
structure State.QuietOutsideWatching (s : State) : Prop where
  table : s.mode ≠ .watching → s.table = []
  slots : s.mode ≠ .watching → ∀ i, (s.slot i).state.unwatched = true
  engine : s.mode ≠ .watching → s.engine.inFlight = none
  requests : s.mode ≠ .watching → ∀ i, s.request? i = none

/-- The pending table agrees with the slot records and with the probe engine (R34, R35, R37, R63, R66, R87):
no two entries share slot and tag; each slot's count is that of its REQUEST entries, and its flag says whether
it has a PROBE entry; a PROBE entry is that of the probe in flight, OPEN and without a partner; a partner
stands under another slot; a FENCED slot has no REQUEST entry, a VACANT or PARKED one no entry; and no slot is
its own twin. -/
structure State.TableConsistent (s : State) : Prop where
  keys : (s.table.map Entry.key).Nodup
  counts : ∀ i, (s.slot i).requestCount = (s.ageOrder i).length
  probes : ∀ i, (s.slot i).probeEntry = true ↔ ∃ e ∈ s.table, e.slot = i ∧ e.kind = .probe
  inFlight : ∀ e ∈ s.table, e.kind = .probe →
    e.state = .opened ∧ e.partner = none ∧ e.pairWindow = none ∧
      ∃ p, s.engine.inFlight = some p ∧ e.key = ⟨p.slot, p.tag⟩
  partners : ∀ e ∈ s.table, ∀ k, e.partner = some k → k.slot ≠ e.slot
  idle : ∀ i, (s.slot i).state.unwatched = true ∨ (s.slot i).state = .fenced →
    (s.slot i).requestCount = 0
  unwatched : ∀ i, (s.slot i).state.unwatched = true → (s.slot i).probeEntry = false
  twins : ∀ i, (s.slot i).config.twin ≠ some i

/-! ### The end of a management command (R181, R182, R184) -/

/-- A copy of the command with this code and these parameters waits in the command buffer, and its
execution can be taken: STARTING is over, and an own-addressed copy finds room in the reply queue. -/
structure State.Holds (s : State) (code : Byte) (params : List Byte) (seq : Byte) (how : Addressing) :
    Prop where
  copy : s.mgmt.command = some ⟨code :: params, seq, how⟩
  started : s.mgmt.mode ≠ .starting
  room : how = .own → s.mgmt.replyQueue.length < Config.replyCapacity

/-- The MRP frame (R184, R198) of a command: kind 5, class 0, the chain address, the sequence number,
then the code, the result code and the results. -/
def State.mrp (t : State) (code seq : Byte) (result : Nat) (results : List Byte) : Frame :=
  mkFrame 5 0 (t.mgmt.chain.zeroExtend 8) (seq.zeroExtend 32)
    (code :: BitVec.ofNat 8 result :: results)

/-- The end of an accepted command whose effect left `t`: the buffer is empty, and the reply to an
own-addressed copy, result code OK, stands at the tail of the reply queue. -/
def State.answered (t : State) (code seq : Byte) (how : Addressing) (results : List Byte) : State :=
  { t with mgmt := { t.mgmt with
      command := none
      replyQueue :=
        if how = .own then t.mgmt.replyQueue ++ [t.mrp code seq 0 results] else t.mgmt.replyQueue } }

/-- The end of a command refused in `s`: the buffer is empty; an own-addressed copy is answered with
the result code, any other sets CMD_DROPPED; nothing else changes. -/
def State.turnedAway (s : State) (code seq : Byte) (how : Addressing) (result : Nat) : State :=
  { s with mgmt := { s.mgmt with
      command := none
      replyQueue :=
        if how = .own then s.mgmt.replyQueue ++ [s.mrp code seq result []] else s.mgmt.replyQueue
      flags := { s.mgmt.flags with cmdDropped := s.mgmt.flags.cmdDropped || decide (how ≠ .own) } } }

/-- Rows of the command catalogue (R180, R198), part one: command, code, class, parameter bytes. -/
def commandFormsOne : List (Instr × Byte × CommandClass × Nat) :=
  [(Instr.enumerate, 0x01, CommandClass.all, 1), (.identify, 0x02, .own, 0),
        (.claim, 0x03, .group, 0), (.release, 0x04, .group, 0), (.reset, 0x05, .group, 0),
        (.setRange, 0x06, .own, 1), (.setGroups, 0x07, .own, 1), (.setTiming, 0x08, .group, 14),
        (.writeProfile, 0x09, .group, 8), (.readProfile, 0x0A, .own, 2)]

/-- Rows of the command catalogue (R180, R198), part two: command, code, class, parameter bytes. -/
def commandFormsTwo : List (Instr × Byte × CommandClass × Nat) :=
  [(.writePolicy, 0x0B, .group, 14), (.readPolicy, 0x0C, .own, 2), (.commit, 0x0D, .group, 0),
        (.admitSlot, 0x0E, .own, 1), (.park, 0x0F, .own, 1), (.fence, 0x10, .own, 1),
        (.unfence, 0x11, .own, 1), (.vacate, 0x12, .own, 1), (.pair, 0x13, .own, 2),
        (.unpair, 0x14, .own, 1)]

/-- Rows of the command catalogue (R180, R198), part three: command, code, class, parameter bytes. -/
def commandFormsThree : List (Instr × Byte × CommandClass × Nat) :=
  [(.configureSlot, 0x15, .own, 16), (.slotStatus, 0x16, .own, 1), (.readSample, 0x17, .own, 1),
        (.snapshot, 0x18, .group, 0), (.readSnapshot, 0x19, .own, 1), (.probe, 0x1A, .own, 1),
        (.probeResult, 0x1B, .own, 0), (.store, 0x1C, .group, 0), (.censusQuery, 0x1D, .all, 0)]

/-- The command catalogue (R180), with the length of each command's parameters (R198). -/
def commandForms : List (Instr × Byte × CommandClass × Nat) :=
  commandFormsOne ++ commandFormsTwo ++ commandFormsThree

/-- The byte `a` is the slot address of index `i` under the watch base (00_scope.md, Terms). -/
abbrev State.Addresses (s : State) (a : Byte) (i : SlotIndex) : Prop :=
  s.mgmt.watchBase + i.val = a.toNat

/-- The byte `a` lies outside the watch range. -/
abbrev State.OutsideRange (s : State) (a : Byte) : Prop := ∀ i : SlotIndex, ¬ s.Addresses a i

end Sys2Proof.Machine
end

