-- ==== Sys2Proof/Certificates/Slice0/Obligations.lean ====
section
/-! DEFINITION. The statements for the provers. Each follows numbered rules of the spec; a clause that
rests on a choice of the model names the log entry. -/

open Sys2Proof Sys2Proof.Machine

/-! ### The step -/

/-- A step of a state whose queue is not empty is the front command on the state with the queue's rest. -/
def Obligations.StepRunsTheFrontCommand : Prop :=
  ∀ (c : Instr) (rest : List Instr) (s : State), s.pending = c :: rest →
    step s = exec c { s with pending := rest }

/-- A step on the empty queue is one reference clock period (R21; that the period stands there is log
entry 1): in STARTING nothing; a period that does not reach the divider counts; a period that reaches it
is a tick, when every event of the present moment has been taken (log entry 3). TICK is that tick, with the
periods up to it. In UNCLAIMED the claim timer counts the periods, 5000000 to the 100 ms (R203; log entry 7),
and none passes once it has expired until the timeout is taken. The events of the present moment: a boundary,
a timed event of an entry, the claim timeout. -/
def Obligations.ReferenceClockAndTick : Prop :=
  ∀ s : State,
    let expired : Prop := s.mgmt.mode = .unclaimed ∧
      ∃ c, s.mgmt.claimTimer = some c ∧ c.timeout * 5000000 ≤ c.periods
    let further (n : Nat) (c : ClaimTimer) : ClaimTimer :=
      ⟨c.timeout, min (c.timeout * 5000000) (c.periods + n)⟩
    let timer (n : Nat) : Management := { s.mgmt with
      claimTimer := if s.mgmt.mode = .unclaimed then s.mgmt.claimTimer.map (further n)
        else s.mgmt.claimTimer }
    let ticked (n : Nat) : State := { s with
      time := { s.time with
        dividerCount := 0, tick := s.time.tick + 1, windowCounter := s.time.windowCounter + 1 }
      mgmt := timer n }
    (s.pending = [] → s.mgmt.mode = .starting → step s = .next s) ∧
    (s.pending = [] → s.mgmt.mode ≠ .starting → s.time.dividerCount + 1 < s.time.divider →
      (¬ expired → step s = .next { s with
        time := { s.time with dividerCount := s.time.dividerCount + 1 }
        mgmt := timer 1 }) ∧
      (expired → step s = .next s)) ∧
    (s.pending = [] → s.mgmt.mode ≠ .starting → s.time.divider ≤ s.time.dividerCount + 1 →
      (s.eventDue = false → step s = .next (ticked 1)) ∧ (s.eventDue = true → step s = .next s)) ∧
    (s.mgmt.mode ≠ .starting →
      (s.eventDue = false →
        exec .tick s = .next (ticked (max 1 (s.time.divider - s.time.dividerCount)))) ∧
      (s.eventDue = true → exec .tick s = .next s)) ∧
    (s.mgmt.mode = .starting → exec .tick s = .next s) ∧
    (s.eventDue = true ↔ s.time.activeLength ≤ s.time.windowCounter ∨ expired ∨ ∃ e ∈ s.table,
      (e.kind = .probe ∧ e.deadline = s.time.tick) ∨
      (e.kind = .request ∧
        ((e.state = .opened ∧ e.deadline = s.time.tick ∧ e.loss ≠ e.deadline) ∨
          (e.loss = s.time.tick ∧
            (e.state = .overdue ∨ (e.state = .opened ∧ e.loss = e.deadline))) ∨
          (e.state = .held ∧ e.twinExpiry = some s.time.tick))))

/-- Every command answers a next state, and none touches the queue. No frame is taken in STARTING (R199), none
from an empty stage, and none while the through buffer of its path is full (R10). A management command is not
executed in STARTING (R199), with no copy of it in the command buffer, or while a copy that needs a reply waits
for room in the reply queue (R181). That a command whose event does not occur answers the state itself is the
model's choice, log entry 2. -/
def Obligations.EveryCommandAnswersAndKeepsTheQueue : Prop :=
  (∀ (c : Instr) (s : State), ∃ t, exec c s = .next t ∧ t.pending = s.pending) ∧
  (∀ s : State,
    (s.mgmt.mode = .starting ∨ s.trunk.upStage = none ∨ 8 ≤ s.trunk.descBuffer.length →
      exec .takeUpFrame s = .next s) ∧
    (s.mgmt.mode = .starting ∨ s.trunk.downStage = none ∨ 8 ≤ s.trunk.ascBuffer.length →
      ∀ a b, exec (.takeDownFrame a b) s = .next s)) ∧
  (∀ s : State,
    let head := s.mgmt.command.bind fun copy => copy.payload.head?
    let waits := s.mgmt.mode = .starting ∨
      (4 ≤ s.mgmt.replyQueue.length ∧ ∃ copy, s.mgmt.command = some copy ∧
        (copy.arrived = .own ∨
          (copy.arrived = .all ∧ s.trunk.endStrap = true ∧ (head = some 0x01 ∨ head = some 0x1D))))
    (∀ (c : Instr) (code : Byte) (cls : CommandClass) (width : Nat), (c, code, cls, width) ∈ commandForms →
      head ≠ some code ∨ waits → exec c s = .next s) ∧
    (s.mgmt.command = none ∨ (∃ code, head = some code ∧ 1 ≤ code.toNat ∧ code.toNat ≤ 0x1D) ∨ waits →
      exec .unknown s = .next s))

/-! ### Resets and start-up -/

/-- Power-on and line reset (R19, R32, R67, R114, R159, R177, R196, R197, R209, R212): the trunk, the live
fields of the time base, the table, the slots, the engine, the report unit, the management unit and the
store. The line reset differs in the cause alone, and while RST_N is low the monitor is held in reset, until
the release, at which END is sampled (R200, R201; the halves of a line reset are log entry 14). Driving low an
RST_N that is low, or releasing one that is high, is no event (log entry 2). The partners' hold lines and the
END level come from outside (log entries 9 and 13). -/
def Obligations.PowerOnAndLineReset : Prop :=
  ∀ (s : State) (low e : Bool), ∃ t, exec (.powerOnReset ⟨low, e⟩) s = .next t ∧
    (s.mgmt.resetHeld = false → exec (.lineReset ⟨true, e⟩) s =
      .next { t with mgmt := { t.mgmt with startCause := .line, resetHeld := true } }) ∧
    (s.mgmt.resetHeld = true → exec (.lineReset ⟨false, e⟩) s = .next { s with
      trunk := { s.trunk with endStrap := e }
      mgmt := { s.mgmt with resetHeld := false } }) ∧
    exec (.lineReset ⟨s.mgmt.resetHeld, e⟩) s = .next s ∧
    t.mgmt.startCause = .power ∧ t.mgmt.resetHeld = low ∧ t.mgmt.claimTimer = none ∧
    t.trunk = ⟨none, none, [], [], 0, 0, s.trunk.upHeld, s.trunk.downHeld, none, none, .inserted,
      .inserted, e, false, false⟩ ∧
    (t.time.dividerCount = 0 ∧ t.time.tick = 0 ∧ t.time.windowCounter = 0 ∧ t.time.windowStart = 0 ∧
      t.time.windowNumber = 0 ∧ t.time.latchedLength = none ∧ t.time.postscaleCount = 0) ∧
    t.table = [] ∧
    (∀ i, (t.slot i).manual = false ∧ (t.slot i).verdict = false ∧ (t.slot i).fencePending = false ∧
      (t.slot i).requestCount = 0 ∧ (t.slot i).probeEntry = false ∧ (t.slot i).cleanRun = 0 ∧
      (t.slot i).adverse = false ∧ (t.slot i).settling = 0 ∧ (t.slot i).window = .zero ∧
      (t.slot i).lastWindow = .zero ∧ (t.slot i).totals = .zero ∧ (t.slot i).captureCount = 0 ∧
      (t.slot i).latency = [] ∧ (t.slot i).overflow = false ∧ (t.slot i).sticky = .all false ∧
      (t.slot i).lostTags = [] ∧ (t.slot i).pacing = .all 0 ∧ (t.slot i).suppressed = .all 0 ∧
      (t.slot i).quiet = 0 ∧ (t.slot i).sinceProbe = 0 ∧ (t.slot i).lastProbe = .none) ∧
    (t.engine.inFlight = none ∧ t.engine.pendingFrame = none ∧ (∀ i, t.request? i = none) ∧
      t.engine.pointer = 31 ∧ t.engine.seq = 0 ∧ t.engine.last = ⟨none, .none, none, false⟩ ∧
      t.engine.stale = 0) ∧
    t.report = ⟨[], 0, false, 0, 0, []⟩ ∧
    (t.mgmt.chain = 0 ∧ t.mgmt.mode = .starting ∧ t.mgmt.command = none ∧ t.mgmt.replyQueue = [] ∧
      t.mgmt.snapshot = .cleared ∧ t.mgmt.flags = .clear) ∧
    t.policy.staged = t.policy.active ∧ t.mgmt.stagedProfiles = t.mgmt.activeProfiles ∧
    (t.store.writing = none ∧ t.store.writeCount = s.store.writeCount ∧
      (s.store.writing = none → t.store.image = s.store.image) ∧
      (s.store.writing ≠ none → t.store.image.good = false)) ∧
    t.pending = s.pending

/-- The end of STARTING (R201, R202, R203, R29, R114, R126, R193): the items of a good image or the
defaults, UNCLAIMED, the claim timer, the MARK sample, the outcomes, STORE_BAD, with the other flags as they
are, and the ARRIVAL alert. That the command says at which ports a frame begun in STARTING still arrives, and
that the trunk keeps it for the discard of R6, is the model's choice, log entry 11. While RST_N is low STARTING
has not begun (R200), and after it the load is over: the event does not occur (log entry 2). An image is good
when it is complete, its CRC is good and every field lies within its range (R202): profiles (R190), policy sets
(R123), slot configurations (R86), timing settings (R189) and the watch base (R188). -/
def Obligations.StoreLoadEndsStarting : Prop :=
  (∀ image : StoreImage, image.good = true ↔
    image.complete = true ∧ image.crcGood = true ∧ image.items.inRange = true) ∧
  (∀ x : StoredItems, x.inRange = true ↔
    (∀ k : Fin 16, let p := x.profiles[k]
      (1 ≤ p.deadline ∧ p.deadline ≤ 65535) ∧ p.grace ≤ 65535 ∧
      (1 ≤ p.twinWindow ∧ p.twinWindow ≤ 65535)) ∧
    (∀ k : Fin 4, let p := x.policies[k]
      (1 ≤ p.missThreshold ∧ p.missThreshold ≤ 255) ∧ (1 ≤ p.lateThreshold ∧ p.lateThreshold ≤ 255) ∧
      (1 ≤ p.strayThreshold ∧ p.strayThreshold ≤ 255) ∧
      (1 ≤ p.confirmWindows ∧ p.confirmWindows ≤ 15) ∧
      (1 ≤ p.probationWindows ∧ p.probationWindows ≤ 15) ∧ p.quietGap ≤ 15) ∧
    (∀ i : SlotIndex, let c := x.slots[i]
      (1 ≤ c.ceiling ∧ c.ceiling ≤ 255) ∧ (1 ≤ c.rampStart ∧ c.rampStart ≤ c.ceiling) ∧
      (1 ≤ c.rampStep ∧ c.rampStep ≤ 255) ∧ c.divisor ∈ [1, 4, 16, 64] ∧
      c.standIn ≠ some i ∧ c.twin ≠ some i) ∧
    x.divider ∈ [50, 500, 5000] ∧ (10 ≤ x.windowLength ∧ x.windowLength ≤ 65535) ∧
    x.postscale ≤ 255 ∧ x.quietPeriod ≤ 255 ∧ (1 ≤ x.recoveryPeriod ∧ x.recoveryPeriod ≤ 255) ∧
    (1 ≤ x.claimTimeout ∧ x.claimTimeout ≤ 255) ∧ x.watchBase ≤ 224) ∧
  ∀ (s : State) (m up down : Bool),
    let c := if s.store.image.good = true then s.store.image.items else StoredItems.default
    let load : LoadOutcome := if s.store.image.good = true then .good else .defaulted
    (s.mgmt.mode ≠ .starting ∨ s.mgmt.resetHeld = true →
      exec (.storeLoadComplete ⟨m, up, down⟩) s = .next s) ∧
    (s.mgmt.mode = .starting → s.mgmt.resetHeld = false →
    ∃ t, exec (.storeLoadComplete ⟨m, up, down⟩) s = .next t ∧
      t.trunk = { s.trunk with upDiscard := up, downDiscard := down } ∧
      t.table = s.table ∧ t.pending = s.pending ∧
      t.time = { s.time with
        divider := c.divider, activeLength := c.windowLength, postscale := c.postscale,
        markEnables := c.markEnables, markSample := m } ∧
      (∀ i, t.slot i = SlotRecord.loaded c.slots[i]) ∧
      t.policy = ⟨c.policies, c.policies⟩ ∧
      t.engine = { s.engine with
        marker := c.marker, cls := c.probeClass, quietPeriod := c.quietPeriod,
        recoveryPeriod := c.recoveryPeriod } ∧
      t.mgmt = { s.mgmt with
        mode := .unclaimed
        claimTimeout := c.claimTimeout
        claimTimer := some ⟨c.claimTimeout, 0⟩
        groups := c.groups
        watchBase := c.watchBase
        activeProfiles := c.profiles
        stagedProfiles := c.profiles
        flags := { s.mgmt.flags with
          storeBad := !s.store.image.good
          outboxLost := s.mgmt.flags.outboxLost || decide (32 ≤ s.report.outbox.length) } } ∧
      t.store = { s.store with
        loadOutcome := load
        outcome := if s.store.image.good = true then .good else .defaulted } ∧
      (s.report.outbox.length < 32 →
        t.report = { s.report with outbox := s.report.outbox ++
          [⟨.arrival s.mgmt.startCause.arrival .unclaimed s.mgmt.chain load 1, s.mgmt.chain⟩] }))

/-! ### Frames -/

/-- The fields of one, two and four bytes, most significant byte first (R1). The check CRC (R3) over
"123456789" and over no byte. What a frame the monitor builds is sent as (R1): header, payload, and the check
over both, least significant byte first; and that is received as a good frame, the same one (R5). The codes
that R198 adds to those of R175, and its order of the counters in a reply. -/
def Obligations.FramesSentAreReceivedGood : Prop :=
  (∀ n : Nat,
    let byte (k : Nat) : Byte := BitVec.ofNat 8 (n / 256 ^ k)
    be8 n = [byte 0] ∧ be16 n = [byte 1, byte 0] ∧ be32 n = [byte 3, byte 2, byte 1, byte 0]) ∧
  (∀ c : Counters,
    let inOrder := [c.arrivals, c.completions, c.lates, c.tardies, c.losts, c.strays, c.divergences,
      c.straggles, c.bounces, c.redirects, c.absorbed]
    c.bytes2 = inOrder.flatMap be16 ∧ c.bytes4 = inOrder.flatMap be32) ∧
  ([SnapshotCause.none, .command, .mark, .census].map SnapshotCause.code = List.range 4 ∧
    [ProbeOrigin.command, .quiet, .recovery].map ProbeOrigin.code = List.range 3 ∧
    [ProbeOutcome.none, .answeredOk, .answeredWrong, .noAnswer, .cancelled].map ProbeOutcome.code =
      List.range 5 ∧
    [StoreOutcome.good, .defaulted, .failed].map StoreOutcome.code = List.range 3) ∧
  crc [0x31, 0x32, 0x33, 0x34, 0x35, 0x36, 0x37, 0x38, 0x39] = 0xE3069283 ∧ crc [] = 0 ∧
  ∀ (kind : BitVec 4) (cls : TxClass) (slot : Byte) (tag : Tag) (payload : List Byte),
    let covered := [kind ++ cls, slot] ++ be32 tag.toNat ++ be16 payload.length ++ payload
    (mkFrame kind cls slot tag payload).bytes = covered ++ (be32 (crc covered).toNat).reverse ∧
    (payload.length ≤ 1024 →
      (mkFrame kind cls slot tag payload).bytes.length = 12 + payload.length ∧
      parseFrame (mkFrame kind cls slot tag payload).bytes =
        some (mkFrame kind cls slot tag payload))

/-- Reception at a port (R5, R6): after STARTING a good frame fills an empty stage; a bad frame (fewer
than 12 bytes, a length field above 1024 or other than the bytes less 12, a check that is not good) and an
overrun add one to the port's error counter and set its flag; in STARTING nothing is counted, nor is the frame
that the partner began then and that ends after it. That a frame which ends while the stage is occupied counts
as an overrun, and that STORE_LOAD_COMPLETE says which port a frame is still arriving at, is the model's
choice, log entry 11. -/
def Obligations.ReceptionOfFrames : Prop :=
  ∀ (s : State) (bytes : List Byte),
    let len := fromBE (slice bytes 6 2)
    let bad := bytes.length < 12 ∨ 1024 < len ∨ bytes.length - 12 ≠ len ∨
      crc (bytes.take (8 + len)) ≠ BitVec.ofNat 32 (fromBE (bytes.drop (8 + len)).reverse)
    let upBad : State := { s with
      trunk := { s.trunk with upErrors := min 65535 (s.trunk.upErrors + 1) }
      mgmt := { s.mgmt with flags := { s.mgmt.flags with linkUpErr := true } } }
    let downBad : State := { s with
      trunk := { s.trunk with downErrors := min 65535 (s.trunk.downErrors + 1) }
      mgmt := { s.mgmt with flags := { s.mgmt.flags with linkDownErr := true } } }
    (s.mgmt.mode = .starting → ∀ p, exec (.frameComplete p bytes) s = .next s ∧
      exec (.frameOverrun p) s = .next s) ∧
    (s.mgmt.mode ≠ .starting → s.trunk.upDiscard = true →
      exec (.frameComplete .up bytes) s =
        .next { s with trunk := { s.trunk with upDiscard := false } } ∧
      exec (.frameOverrun .up) s = .next { s with trunk := { s.trunk with upDiscard := false } }) ∧
    (s.mgmt.mode ≠ .starting → s.trunk.downDiscard = true →
      exec (.frameComplete .down bytes) s =
        .next { s with trunk := { s.trunk with downDiscard := false } } ∧
      exec (.frameOverrun .down) s = .next { s with trunk := { s.trunk with downDiscard := false } }) ∧
    (s.mgmt.mode ≠ .starting → s.trunk.upDiscard = false →
      exec (.frameOverrun .up) s = .next upBad ∧
      (bad ∨ s.trunk.upStage ≠ none → exec (.frameComplete .up bytes) s = .next upBad) ∧
      (∀ f, parseFrame bytes = some f → s.trunk.upStage = none →
        exec (.frameComplete .up bytes) s =
          .next { s with trunk := { s.trunk with upStage := some f } })) ∧
    (s.mgmt.mode ≠ .starting → s.trunk.downDiscard = false →
      exec (.frameOverrun .down) s = .next downBad ∧
      (bad ∨ s.trunk.downStage ≠ none → exec (.frameComplete .down bytes) s = .next downBad) ∧
      (∀ f, parseFrame bytes = some f → s.trunk.downStage = none →
        exec (.frameComplete .down bytes) s =
          .next { s with trunk := { s.trunk with downStage := some f } })) ∧
    (¬ bad → parseFrame bytes ≠ none)

/-- The frame being sent ends (R16), and a partner's hold takes the level given (R9). The choice of the
ascending arbiter (R17), with what a freed place of a full outbox takes (R164). The choice of the descending
arbiter (R18). A transmitter whose partner holds it, that is sending, or that is in STARTING begins nothing
(R9, R16), nor does one with nothing to send (log entry 2). When a port asserts hold (R8; not
for a frame part-way through reception, which is the model's choice, log entry 33). The frame of an outbox
record of each kind: kind ALR, class 0, the chain address it was placed with, tag 0 and the payload of R175,
with its codes (R2, R161). -/
def Obligations.TrunkArbiters : Prop :=
  (∀ (s : State) (b : Bool),
    exec (.transmitEnd .up) s = .next { s with trunk := { s.trunk with upSending := none } } ∧
    exec (.transmitEnd .down) s = .next { s with trunk := { s.trunk with downSending := none } } ∧
    exec (.partnerHoldChange .up b) s = .next { s with trunk := { s.trunk with upHeld := b } } ∧
    exec (.partnerHoldChange .down b) s = .next { s with trunk := { s.trunk with downHeld := b } }) ∧
  (∀ s : State,
    (s.mgmt.mode = .starting ∨ s.trunk.upSending ≠ none ∨ s.trunk.upHeld = true ∨
        (s.trunk.ascBuffer = [] ∧ s.report.bounceQueue = [] ∧ s.mgmt.replyQueue = [] ∧
          s.report.outbox = []) →
      exec .upTransmitBegin s = .next s) ∧
    (s.mgmt.mode = .starting ∨ s.trunk.downSending ≠ none ∨ s.trunk.downHeld = true ∨
        (s.trunk.descBuffer = [] ∧ s.engine.pendingFrame = none) →
      exec .downTransmitBegin s = .next s) ∧
    (s.assertsHold .up = true ↔ s.mgmt.mode = .starting ∨ s.trunk.upStage ≠ none ∨
      8 ≤ s.trunk.descBuffer.length) ∧
    (s.assertsHold .down = true ↔ s.mgmt.mode = .starting ∨ s.trunk.downStage ≠ none ∨
      8 ≤ s.trunk.ascBuffer.length)) ∧
  (∀ s : State, s.mgmt.mode ≠ .starting → s.trunk.upSending = none → s.trunk.upHeld = false →
    (∀ f rest, s.trunk.ascBuffer = f :: rest →
      ((s.report.bounceQueue = [] ∧ s.mgmt.replyQueue = [] ∧ s.report.outbox = []) ∨
        s.trunk.ascLast = .inserted) →
      exec .upTransmitBegin s = .next { s with trunk := { s.trunk with
        ascBuffer := rest, upSending := some f, ascLast := .through } }) ∧
    (s.trunk.ascBuffer = [] ∨ s.trunk.ascLast = .through →
      (∀ f rest, s.report.bounceQueue = f :: rest →
        exec .upTransmitBegin s = .next { s with
          trunk := { s.trunk with upSending := some f, ascLast := .inserted }
          report := { s.report with bounceQueue := rest } }) ∧
      (∀ f rest, s.report.bounceQueue = [] → s.mgmt.replyQueue = f :: rest →
        exec .upTransmitBegin s = .next { s with
          trunk := { s.trunk with upSending := some f, ascLast := .inserted }
          mgmt := { s.mgmt with replyQueue := rest } }) ∧
      (∀ r rest, s.report.bounceQueue = [] → s.mgmt.replyQueue = [] → s.report.outbox = r :: rest →
        (s.report.outbox.length < 32 ∨ (s.report.lostCount = 0 ∧ s.report.censusOwed = false) →
          exec .upTransmitBegin s = .next { s with
            trunk := { s.trunk with upSending := some r.frame, ascLast := .inserted }
            report := { s.report with outbox := rest } }) ∧
        (s.report.outbox.length = 32 → 0 < s.report.lostCount →
          exec .upTransmitBegin s = .next { s with
            trunk := { s.trunk with upSending := some r.frame, ascLast := .inserted }
            report := { s.report with
              outbox := rest ++ [⟨.overflow s.report.lostCount, s.mgmt.chain⟩], lostCount := 0 } }) ∧
        (s.report.outbox.length = 32 → s.report.lostCount = 0 → s.report.censusOwed = true →
          exec .upTransmitBegin s = .next { s with
            trunk := { s.trunk with upSending := some r.frame, ascLast := .inserted }
            report := { s.report with
              outbox := rest ++ [⟨s.censusRecord s.report.owedVerdicts, s.mgmt.chain⟩],
              censusOwed := false, owedVerdicts := 0 } })))) ∧
  (∀ s : State, s.mgmt.mode ≠ .starting → s.trunk.downSending = none → s.trunk.downHeld = false →
    (∀ f rest, s.trunk.descBuffer = f :: rest →
      (s.engine.pendingFrame = none ∨ s.trunk.descLast = .inserted) →
      exec .downTransmitBegin s = .next { s with trunk := { s.trunk with
        descBuffer := rest, downSending := some f, descLast := .through } }) ∧
    (∀ f, s.engine.pendingFrame = some f →
      (s.trunk.descBuffer = [] ∨ s.trunk.descLast = .through) →
      exec .downTransmitBegin s = .next { s with
        trunk := { s.trunk with downSending := some f, descLast := .inserted }
        engine := { s.engine with pendingFrame := none } })) ∧
  (∀ (chain own : ChainAddr) (cause : ArrivalCause) (load : LoadOutcome) (m old : Mode)
    (addr figure suppressed count : Nat) (k : VerdictKind) (applied : Policy) (was is : SlotState)
    (partner : Option Nat) (tag : Option Tag) (why : SlotCause) (window : BitVec 32) (c : StateCounts)
    (revision occupancy oldest least verdicts : Nat),
    let sent (r : AlertRecord) : Frame := OutboxRecord.frame ⟨r, chain⟩
    let alr (payload : List Byte) : Frame := mkFrame 6 0 (chain.zeroExtend 8) 0 payload
    sent (.arrival cause m own load revision) =
      alr ([1] ++ be8 cause.code ++ be8 m.code ++ be8 own.toNat ++ be8 load.code ++ be8 revision) ∧
    sent (.mode old m) = alr ([2] ++ be8 old.code ++ be8 m.code) ∧
    sent (.verdict addr k applied is figure partner tag suppressed) =
      alr ([3] ++ be8 addr ++ be8 k.code ++ be8 applied.code ++ be8 is.code ++ be16 figure
        ++ be8 ((if partner.isSome then 1 else 0) + (if tag.isSome then 2 else 0))
        ++ be8 (partner.getD 0) ++ be32 (tag.getD 0).toNat ++ be8 suppressed) ∧
    sent (.slotState addr was is why) =
      alr ([4] ++ be8 addr ++ be8 was.code ++ be8 is.code ++ be8 why.code) ∧
    sent (.orphan addr count) = alr ([5] ++ be8 addr ++ be16 count) ∧
    sent (.overflow count) = alr ([6] ++ be16 count) ∧
    sent (.census window c occupancy oldest least verdicts) =
      alr ([7] ++ be32 window.toNat
        ++ (be8 c.vacant ++ be8 c.parked ++ be8 c.probation ++ be8 c.live ++ be8 c.suspect
          ++ be8 c.draining ++ be8 c.fenced)
        ++ be16 occupancy ++ be16 oldest ++ be16 least ++ be16 verdicts)) ∧
  ([SlotState.vacant, .parked, .probation, .live, .suspect, .draining, .fenced].map SlotState.code =
      List.range 7 ∧
    [Mode.starting, .unclaimed, .watching, .transparent].map Mode.code = List.range 4 ∧
    [VerdictKind.stall, .missRun, .lateRun, .strayRun, .diverge, .straggle, .probeFail].map
      VerdictKind.code = List.range 7 ∧
    [Policy.off, .report, .confirm, .fence].map Policy.code = List.range 4 ∧
    [SlotCause.command, .verdict, .confirmed, .probationDone, .restore, .drained, .claim, .release,
      .reset].map SlotCause.code = List.range 9 ∧
    [ArrivalCause.power, .line, .soft].map ArrivalCause.code = List.range 3 ∧
    [LoadOutcome.good, .defaulted].map LoadOutcome.code = List.range 2)

/-- An alert record joins the tail of an outbox with room, with the chain address (R162, R161); at a full
outbox it is lost, counted and flagged (R163). Pacing (R166): at hold 0 the record passes to the outbox with
the suppressed count, which returns to 0, and the hold takes the quiet gap; at 1 to 15 the record is
discarded and the suppressed count goes up, saturating at 255. The other kinds' holds and counts stand. -/
def Obligations.AlertQueueAndPacing : Prop :=
  (∀ (s : State) (r : AlertRecord),
    (s.report.outbox.length < 32 → s.queueAlert r =
      { s with report := { s.report with outbox := s.report.outbox ++ [⟨r, s.mgmt.chain⟩] } }) ∧
    (32 ≤ s.report.outbox.length → s.queueAlert r =
      { s with
        report := { s.report with lostCount := min 65535 (s.report.lostCount + 1) }
        mgmt := { s.mgmt with flags := { s.mgmt.flags with outboxLost := true } } })) ∧
  (∀ (s : State) (i : SlotIndex) (k : VerdictKind) (applied : Policy) (after : SlotState) (figure : Nat)
    (partner : Option Nat) (tag : Option Tag),
    let r := s.slot i
    (r.pacing.get k = 0 →
      s.submitVerdict i k applied after figure partner tag =
        { s with slots := s.slots.set i { r with
            pacing := r.pacing.set k (s.policySet i).quietGap
            suppressed := r.suppressed.set k 0 } }.queueAlert
          (.verdict (s.mgmt.watchBase + i.val) k applied after figure partner tag
            (r.suppressed.get k))) ∧
    (r.pacing.get k ≠ 0 →
      s.submitVerdict i k applied after figure partner tag =
        { s with slots := s.slots.set i { r with
            suppressed := r.suppressed.set k (min 255 (r.suppressed.get k + 1)) } }))

/-! ### Frames taken at UP -/

/-- Frames that pass UP untracked (R11, R40, R41): kinds other than REQ and MGT; a REQ outside WATCHING or
the watch range; a foreign probe to a VACANT or accepting slot; a REQ to a VACANT slot; a REQ of an
unwatched class to an accepting slot; a REQ under the key of a PROBE entry (R44). The frame moves from the
stage to the through buffer and nothing else changes; with that buffer full it waits (R10). Frames that pass
DOWN untracked (R12, R49, R50, R51, R176): kinds other than RSP and CEN; a CEN frame whose length is not 25;
an RSP outside WATCHING or the watch range; another monitor's probe answer; an RSP from a VACANT or PARKED
slot; an RSP of an unwatched class without an entry. With the through buffer full the frame waits (R10). -/
def Obligations.FramesForwardedUntracked : Prop :=
  (∀ (s : State) (f : Frame), s.trunk.upStage = some f → s.mgmt.mode ≠ .starting →
    (8 ≤ s.trunk.descBuffer.length → exec .takeUpFrame s = .next s) ∧
    (s.trunk.descBuffer.length < 8 →
      ((f.kind ≠ 1 ∧ f.kind ≠ 4) ∨ (f.kind = 1 ∧ s.mgmt.mode ≠ .watching) ∨
        (f.kind = 1 ∧ s.OutsideRange f.slot) ∨
        (f.kind = 1 ∧ ∃ i, s.Addresses f.slot i ∧
          ((s.slot i).state = .vacant ∨
            ((s.slot i).state.accepting = true ∧ tagMarker f.tag = s.engine.marker) ∨
            ((s.slot i).state.accepting = true ∧ (s.profile f.cls).watched = false) ∨
            ((s.slot i).state.accepting = true ∧
              ∃ e, s.findEntry i f.tag = some e ∧ e.kind = .probe)))) →
      exec .takeUpFrame s = .next { s with trunk := { s.trunk with
        upStage := none, descBuffer := s.trunk.descBuffer ++ [f] } })) ∧
  (∀ (s : State) (f : Frame) (a b : Bool), s.trunk.downStage = some f → s.mgmt.mode ≠ .starting →
    (8 ≤ s.trunk.ascBuffer.length → exec (.takeDownFrame a b) s = .next s) ∧
    (s.trunk.ascBuffer.length < 8 →
      ((f.kind ≠ 2 ∧ f.kind ≠ 7) ∨ (f.kind = 7 ∧ f.payload.length ≠ 25) ∨
        (f.kind = 2 ∧ s.mgmt.mode ≠ .watching) ∨ (f.kind = 2 ∧ s.OutsideRange f.slot) ∨
        (f.kind = 2 ∧ ∃ i, s.Addresses f.slot i ∧
          (∀ e, s.findEntry i f.tag = some e → e.kind = .request) ∧
          ((tagMarker f.tag = s.engine.marker ∧ tagChain f.tag ≠ s.mgmt.chain) ∨
            (tagMarker f.tag ≠ s.engine.marker ∧
              ((s.slot i).state = .vacant ∨ (s.slot i).state = .parked)) ∨
            (tagMarker f.tag ≠ s.engine.marker ∧ (s.slot i).state ≠ .fenced ∧
              (s.profile f.cls).watched = false ∧ s.findEntry i f.tag = none)))) →
      exec (.takeDownFrame a b) s = .next { s with trunk := { s.trunk with
        downStage := none, ascBuffer := s.trunk.ascBuffer ++ [f] } }))

/-- MGT frames taken at UP (R14, R15, R187): one addressed to this monitor is consumed; one addressed to a
group of this monitor or to all is copied and forwarded, an all-addressed ENUMERATE of a 2-byte payload
with n + 1; the end-of-chain monitor forwards none. A copy that finds the buffer occupied is discarded with
CMD_DROPPED. -/
def Obligations.ManagementFramesTakenAtUp : Prop :=
  ∀ (s : State) (f : Frame), s.trunk.upStage = some f → f.kind = 4 → s.mgmt.mode ≠ .starting →
    s.trunk.descBuffer.length < 8 →
    let copied (how : Addressing) : State :=
      match s.mgmt.command with
      | none => { s with mgmt := { s.mgmt with
          command := some ⟨f.payload, f.tag.extractLsb' 0 8, how⟩ } }
      | some _ => { s with mgmt := { s.mgmt with
          flags := { s.mgmt.flags with cmdDropped := true } } }
    let consumed (t : State) : State := { t with trunk := { t.trunk with upStage := none } }
    let passed (t : State) (g : Frame) : State := { t with trunk := { t.trunk with
      upStage := none
      descBuffer :=
        if s.trunk.endStrap = true then t.trunk.descBuffer else t.trunk.descBuffer ++ [g] } }
    (s.mgmt.chain ≠ 0 → f.slot.toNat = s.mgmt.chain.toNat →
      exec .takeUpFrame s = .next (consumed (copied .own))) ∧
    (∀ g : Fin 4, f.slot.toNat = 0x40 + g.val → s.mgmt.groups.getLsbD g.val = true →
      exec .takeUpFrame s = .next (passed (copied .group) f)) ∧
    (f.slot = 0xFF → (∀ n, f.payload ≠ [0x01, n]) →
      exec .takeUpFrame s = .next (passed (copied .all) f)) ∧
    (f.slot = 0xFF → ∀ n : Byte, f.payload = [0x01, n] →
      exec .takeUpFrame s = .next (passed (copied .all)
        (Frame.withCheck { f with payload := [0x01, BitVec.ofNat 8 (min 255 (n.toNat + 1))] }))) ∧
    (f.slot ≠ 0xFF → (s.mgmt.chain = 0 ∨ f.slot.toNat ≠ s.mgmt.chain.toNat) →
      (∀ g : Fin 4, f.slot.toNat = 0x40 + g.val → s.mgmt.groups.getLsbD g.val = false) →
      exec .takeUpFrame s = .next (passed s f))

/-- A REQ that passes every test of admission creates an entry (R46, R38, R37), which links to an unlinked,
unstraggled OPEN or OVERDUE entry of its twin slot with the same tag (R73, R75). A REQ under the key of a
REQUEST entry is a retry (R44): below 3 the count increments and the frame is forwarded; nothing else of the
entry, and no counter, changes. -/
def Obligations.AdmissionAndRetry : Prop :=
  (∀ (s : State) (f : Frame) (i : SlotIndex), s.trunk.upStage = some f → f.kind = 1 →
    s.mgmt.mode = .watching → s.trunk.descBuffer.length < 8 → s.Addresses f.slot i →
    tagMarker f.tag ≠ s.engine.marker → (s.slot i).state.accepting = true →
    (s.profile f.cls).watched = true → s.findEntry i f.tag = none →
    (s.slot i).requestCount < (s.slot i).ceiling → s.table.length < 2048 →
    let deadline := s.time.tick + BitVec.ofNat 32 (s.profile f.cls).deadline
    let window := (s.profile f.cls).twinWindow
    let e : Entry :=
      { slot := i, tag := f.tag, cls := f.cls, kind := .request, state := .opened,
        arrival := s.time.tick, deadline := deadline,
        loss := deadline + BitVec.ofNat 32 (s.profile f.cls).grace, retries := 0, redirected := false,
        partner := none, pairWindow := none, digest := none, twinExpiry := none, straggled := false }
    let with' (l : List Entry) : State :=
      { s with
        trunk := { s.trunk with upStage := none, descBuffer := s.trunk.descBuffer ++ [f] }
        table := l
        slots := s.slots.set i
          ({ s.slot i with requestCount := (s.slot i).requestCount + 1 }.credit .arrivals) }
    ((s.slot i).config.twin = none → exec .takeUpFrame s = .next (with' (s.table ++ [e]))) ∧
    (∀ j, (s.slot i).config.twin = some j → j ≠ i →
      (s.findEntry j f.tag = none → exec .takeUpFrame s = .next (with' (s.table ++ [e]))) ∧
      (∀ c, s.findEntry j f.tag = some c →
        (c.kind = .probe ∨ c.redirected = true ∨ c.partner ≠ none ∨ c.straggled = true ∨
          c.state = .held → exec .takeUpFrame s = .next (with' (s.table ++ [e]))) ∧
        (c.kind = .request → c.redirected = false → c.partner = none → c.straggled = false →
          c.state ≠ .held →
          exec .takeUpFrame s = .next (with'
            (s.table.map (fun x => if x.key = ⟨j, f.tag⟩ then
                { x with partner := some ⟨i, f.tag⟩, pairWindow := some window } else x)
              ++ [{ e with partner := some ⟨j, f.tag⟩, pairWindow := some window }])))))) ∧
  (∀ (s : State) (f : Frame) (i : SlotIndex) (e : Entry), s.trunk.upStage = some f → f.kind = 1 →
    s.mgmt.mode = .watching → s.trunk.descBuffer.length < 8 → s.Addresses f.slot i →
    tagMarker f.tag ≠ s.engine.marker → (s.slot i).state.accepting = true →
    (s.profile f.cls).watched = true → s.findEntry i f.tag = some e → e.kind = .request →
    e.retries < 3 →
    exec .takeUpFrame s = .next { s with
      trunk := { s.trunk with upStage := none, descBuffer := s.trunk.descBuffer ++ [f] }
      table := s.table.map fun x =>
        if x.key = ⟨i, f.tag⟩ then { x with retries := x.retries + 1 } else x })

/-- The bounces of admission (R40, R42, R43, R44, R45, R47, R168, R176) and their reason codes (R175): one
BNC frame with the class, slot and tag received, the reason and the chain address, and a bounce credited to
the slot addressed; TABLE_FULL flagged where the table was full. A full bounce queue leaves the frame
waiting and everything as it stands (R10). -/
def Obligations.AdmissionBounces : Prop :=
  ∀ (s : State) (f : Frame) (i : SlotIndex) (reason : Nat) (full : Bool),
    s.trunk.upStage = some f → f.kind = 1 → s.mgmt.mode = .watching →
    s.trunk.descBuffer.length < 8 → s.Addresses f.slot i →
    let st := (s.slot i).state
    let byState := (st = .parked ∧ reason = 3) ∨ (st = .draining ∧ reason = 4) ∨
      (st = .fenced ∧ reason = 5)
    let foreign := tagMarker f.tag = s.engine.marker
    let refuses := st = .parked ∨ st = .draining ∨ st = .fenced
    ((foreign ∧ byState ∧ full = false) ∨
      (¬ foreign ∧ byState ∧ full = false ∧ (s.slot i).config.standIn = none) ∨
      (¬ foreign ∧ refuses ∧ reason = 6 ∧ ∃ j, (s.slot i).config.standIn = some j ∧
        (((s.slot j).state.accepting = false ∧ full = false) ∨
          ((s.slot j).state.accepting = true ∧ full = false ∧
            ∃ e, s.findEntry j f.tag = some e ∧ e.kind = .probe) ∨
          ((s.slot j).state.accepting = true ∧ s.findEntry j f.tag = none ∧
            (s.profile f.cls).watched = true ∧
            ((s.slot j).ceiling ≤ (s.slot j).requestCount ∨ 2048 ≤ s.table.length) ∧
            full = decide (2048 ≤ s.table.length)))) ∨
      (¬ foreign ∧ refuses ∧ reason = 7 ∧ full = false ∧
        ∃ j e, (s.slot i).config.standIn = some j ∧ (s.slot j).state.accepting = true ∧
          s.findEntry j f.tag = some e ∧ e.kind = .request ∧ 3 ≤ e.retries) ∨
      (¬ foreign ∧ st.accepting = true ∧ (s.profile f.cls).watched = true ∧
        ((reason = 7 ∧ full = false ∧
            ∃ e, s.findEntry i f.tag = some e ∧ e.kind = .request ∧ 3 ≤ e.retries) ∨
          (reason = 1 ∧ full = false ∧ s.findEntry i f.tag = none ∧
            (s.slot i).ceiling ≤ (s.slot i).requestCount) ∨
          (reason = 2 ∧ full = true ∧ s.findEntry i f.tag = none ∧
            (s.slot i).requestCount < (s.slot i).ceiling ∧ 2048 ≤ s.table.length)))) →
    (16 ≤ s.report.bounceQueue.length → exec .takeUpFrame s = .next s) ∧
    (s.report.bounceQueue.length < 16 →
      exec .takeUpFrame s = .next { s with
        trunk := { s.trunk with upStage := none }
        report := { s.report with bounceQueue := s.report.bounceQueue ++
          [mkFrame 3 f.cls f.slot f.tag [BitVec.ofNat 8 reason, s.mgmt.chain.zeroExtend 8]] }
        slots := s.slots.set i ((s.slot i).credit .bounces)
        mgmt := { s.mgmt with flags := { s.mgmt.flags with
          tableFull := s.mgmt.flags.tableFull || full } } })

/-- A REQ refused by its slot `i` whose stand-in `j` is usable (R42, R43): a retry of the stand-in's entry,
an unwatched class, or a new redirected entry under the stand-in; forwarded with the stand-in's address and
a new check (R13), the redirect counted at the refusing slot. -/
def Obligations.RedirectToTheStandIn : Prop :=
  ∀ (s : State) (f : Frame) (i j : SlotIndex), s.trunk.upStage = some f → f.kind = 1 →
    s.mgmt.mode = .watching → s.trunk.descBuffer.length < 8 → s.Addresses f.slot i →
    tagMarker f.tag ≠ s.engine.marker →
    ((s.slot i).state = .parked ∨ (s.slot i).state = .draining ∨ (s.slot i).state = .fenced) →
    (s.slot i).config.standIn = some j → (s.slot j).state.accepting = true →
    let g := Frame.withCheck { f with slot := BitVec.ofNat 8 (s.mgmt.watchBase + j.val) }
    let forwarded (l : List Entry) (v : Vector SlotRecord 32) : State :=
      { s with
        trunk := { s.trunk with upStage := none, descBuffer := s.trunk.descBuffer ++ [g] }
        table := l
        slots := v }
    (∀ e, s.findEntry j f.tag = some e → e.kind = .request → e.retries < 3 →
      exec .takeUpFrame s = .next (forwarded
        (s.table.map fun x =>
          if x.key = ⟨j, f.tag⟩ then { x with retries := x.retries + 1 } else x)
        (s.slots.set i ((s.slot i).credit .redirects)))) ∧
    (s.findEntry j f.tag = none → (s.profile f.cls).watched = false →
      exec .takeUpFrame s = .next (forwarded s.table
        (s.slots.set i ((s.slot i).credit .redirects)))) ∧
    (s.findEntry j f.tag = none → (s.profile f.cls).watched = true →
      (s.slot j).requestCount < (s.slot j).ceiling → s.table.length < 2048 →
      let deadline := s.time.tick + BitVec.ofNat 32 (s.profile f.cls).deadline
      let e : Entry :=
        { slot := j, tag := f.tag, cls := f.cls, kind := .request, state := .opened,
          arrival := s.time.tick, deadline := deadline,
          loss := deadline + BitVec.ofNat 32 (s.profile f.cls).grace, retries := 0,
          redirected := true, partner := none, pairWindow := none, digest := none,
          twinExpiry := none, straggled := false }
      exec .takeUpFrame s = .next (forwarded (s.table ++ [e])
        ((s.slots.set j
          ({ s.slot j with requestCount := (s.slot j).requestCount + 1 }.credit .arrivals)).set i
          ((s.slot i).credit .redirects))))

/-- A credit adds one to the window counter (16 bits) and to the running total (32 bits) of that name, each
saturating, and to no other counter (R101, R102); nothing else of the record changes. The latency sample
rule (R104, R105): the capture counter increments; at the divisor it returns to 0 and the sample joins a
FIFO of fewer than 4, or is discarded with the overflow flag set. -/
def Obligations.CreditsAndLatencySamples : Prop :=
  (∀ (r : SlotRecord) (c : CounterName),
    (r.credit c).window.get c = min 65535 (r.window.get c + 1) ∧
    (r.credit c).totals.get c = min 4294967295 (r.totals.get c + 1) ∧
    (∀ d, d ≠ c → (r.credit c).window.get d = r.window.get d ∧
      (r.credit c).totals.get d = r.totals.get d) ∧
    r.credit c = { r with window := (r.credit c).window, totals := (r.credit c).totals }) ∧
  (∀ (r : SlotRecord) (x : Sample),
    (r.captureCount + 1 ≠ r.config.divisor →
      r.sampleLatency x = { r with captureCount := r.captureCount + 1 }) ∧
    (r.captureCount + 1 = r.config.divisor → r.latency.length < 4 →
      r.sampleLatency x = { r with captureCount := 0, latency := r.latency ++ [x] }) ∧
    (r.captureCount + 1 = r.config.divisor → 4 ≤ r.latency.length →
      r.sampleLatency x = { r with captureCount := 0, overflow := true }))

/-! ### Frames taken at DOWN -/

/-- A CEN frame of length 25 is merged (R173, R176): in WATCHING each figure of this monitor is added in
(the oldest age by maximum, the LIVE completions by minimum) and one monitor merged; in UNCLAIMED or
TRANSPARENT one monitor not watching is added. The frame keeps its other fields and leaves with a new
check (R13). -/
def Obligations.CensusFramesAreMerged : Prop :=
  ∀ (s : State) (f : Frame) (a b : Bool) (c : CenFields), s.trunk.downStage = some f → f.kind = 7 →
    s.mgmt.mode ≠ .starting → s.trunk.ascBuffer.length < 8 → f.payload = c.payload →
    (c.states.vacant < 65536 ∧ c.states.parked < 65536 ∧ c.states.probation < 65536 ∧
      c.states.live < 65536 ∧ c.states.suspect < 65536 ∧ c.states.draining < 65536 ∧
      c.states.fenced < 65536 ∧ c.occupancy < 65536 ∧ c.maxAge < 65536 ∧ c.minLive < 65536 ∧
      c.verdicts < 65536 ∧ c.merged < 256 ∧ c.notWatching < 256) →
    let add (x y : Nat) : Nat := min 65535 (x + y)
    let watching : CenFields :=
      { states :=
          { vacant := add c.states.vacant (s.countState .vacant)
            parked := add c.states.parked (s.countState .parked)
            probation := add c.states.probation (s.countState .probation)
            live := add c.states.live (s.countState .live)
            suspect := add c.states.suspect (s.countState .suspect)
            draining := add c.states.draining (s.countState .draining)
            fenced := add c.states.fenced (s.countState .fenced) }
        occupancy := add c.occupancy s.table.length
        maxAge := max c.maxAge s.oldestPendingAge
        minLive := min c.minLive s.minLive
        verdicts := add c.verdicts s.report.periodVerdicts
        merged := min 255 (c.merged + 1)
        notWatching := c.notWatching
        seq := c.seq }
    let sent (d : CenFields) : State := { s with trunk := { s.trunk with
      downStage := none
      ascBuffer := s.trunk.ascBuffer ++ [Frame.withCheck { f with payload := d.payload }] } }
    (s.mgmt.mode = .watching → exec (.takeDownFrame a b) s = .next (sent watching)) ∧
    (s.mgmt.mode ≠ .watching → exec (.takeDownFrame a b) s =
      .next (sent { c with notWatching := min 255 (c.notWatching + 1) }))

/-- An RSP that finds a HELD entry is a duplicate (R53): the slot's strays counter increments and the frame
is forwarded; the entry, the latency figures and everything else stand. Answers without an entry (R50, R54,
R55): from a FENCED slot absorbed and counted; with a tag of the lost-tag list TARDY, the tag leaving the
list; else STRAY. -/
def Obligations.AnswersWithoutAnOpenEntry : Prop :=
  (∀ (s : State) (f : Frame) (i : SlotIndex) (e : Entry) (a b : Bool), s.trunk.downStage = some f →
    f.kind = 2 → s.mgmt.mode = .watching → s.trunk.ascBuffer.length < 8 → s.Addresses f.slot i →
    tagMarker f.tag ≠ s.engine.marker →
    ((s.slot i).state.accepting = true ∨ (s.slot i).state = .draining) →
    s.findEntry i f.tag = some e → e.kind = .request → e.state = .held →
    exec (.takeDownFrame a b) s = .next { s with
      trunk := { s.trunk with downStage := none, ascBuffer := s.trunk.ascBuffer ++ [f] }
      slots := s.slots.set i ((s.slot i).credit .strays) }) ∧
  (∀ (s : State) (f : Frame) (i : SlotIndex) (a b : Bool), s.trunk.downStage = some f →
    f.kind = 2 → s.mgmt.mode = .watching → s.trunk.ascBuffer.length < 8 → s.Addresses f.slot i →
    tagMarker f.tag ≠ s.engine.marker →
    ((s.slot i).state = .fenced → (∀ e, s.findEntry i f.tag = some e → e.kind = .request) →
      exec (.takeDownFrame a b) s = .next { s with
        trunk := { s.trunk with downStage := none }
        slots := s.slots.set i ((s.slot i).credit .absorbed) }) ∧
    ((s.slot i).state.accepting = true ∨ (s.slot i).state = .draining →
      s.findEntry i f.tag = none → (s.profile f.cls).watched = true →
      (f.tag ∈ (s.slot i).lostTags →
        exec (.takeDownFrame a b) s = .next { s with
          trunk := { s.trunk with downStage := none, ascBuffer := s.trunk.ascBuffer ++ [f] }
          slots := s.slots.set i
            ({ s.slot i with lostTags := (s.slot i).lostTags.erase f.tag }.credit .tardies) }) ∧
      (f.tag ∉ (s.slot i).lostTags →
        exec (.takeDownFrame a b) s = .next { s with
          trunk := { s.trunk with downStage := none, ascBuffer := s.trunk.ascBuffer ++ [f] }
          slots := s.slots.set i ((s.slot i).credit .strays) })))

/-- An answer to an OPEN or OVERDUE entry (R52): a completion, late when OVERDUE, and the latency sample
rule; then, by the partner: none, the entry is removed; OPEN or OVERDUE, the entry becomes HELD with the
answer digest and the twin-window expiry (R76); HELD, both are removed, in either order (log entry 5), and
when the digests differ both slots are credited a divergence and take a DIVERGE condition, in either order
(R78, R79); a slot that its removal has parked is judged as PARKED (log entry 29). The frame is forwarded. -/
def Obligations.AnswersToAnEntry : Prop :=
  ∀ (s : State) (f : Frame) (i : SlotIndex) (e : Entry) (heldRemovedFirst heldJudgedFirst : Bool),
    s.trunk.downStage = some f → f.kind = 2 → s.mgmt.mode = .watching →
    s.trunk.ascBuffer.length < 8 → s.Addresses f.slot i → tagMarker f.tag ≠ s.engine.marker →
    ((s.slot i).state.accepting = true ∨ (s.slot i).state = .draining) →
    s.findEntry i f.tag = some e → e.kind = .request → e.state ≠ .held →
    let late := decide (e.state = .overdue)
    let r := (s.slot i).credit .completions
    let counted : State := { s with
      trunk := { s.trunk with downStage := none }
      slots := s.slots.set i ((if late = true then r.credit .lates else r).sampleLatency
        ⟨min 65535 (s.time.tick - e.arrival).toNat, e.cls, late⟩) }
    let answer : Host.Outcome State Fault Refusal :=
      exec (.takeDownFrame heldRemovedFirst heldJudgedFirst) s
    (e.partner = none → answer = .next ((counted.removeEntry e).forwardUp f)) ∧
    (∀ j p, e.partner = some ⟨j, f.tag⟩ → s.findEntry j f.tag = some p →
      (p.state ≠ .held →
        let waiting : State := { counted with table := s.table.map fun x =>
          if x.key = ⟨i, f.tag⟩ then
            { x with
              state := .held
              digest := some (crc f.payload)
              twinExpiry := some (s.time.tick + BitVec.ofNat 32 (x.pairWindow.getD 0)) }
          else x }
        answer = .next (waiting.forwardUp f)) ∧
      (p.state = .held →
        let gone := if heldRemovedFirst = true then (counted.removeEntry p).removeEntry e
          else (counted.removeEntry e).removeEntry p
        (p.digest = some (crc f.payload) → answer = .next (gone.forwardUp f)) ∧
        (p.digest ≠ some (crc f.payload) →
          let credited := (gone.credit j .divergences).credit i .divergences
          let first (t : State) := t.raiseVerdict j .diverge 0 (some (s.mgmt.watchBase + i.val))
            (some f.tag)
          let second (t : State) := t.raiseVerdict i .diverge 0 (some (s.mgmt.watchBase + j.val))
            (some f.tag)
          answer = .next ((if heldJudgedFirst = true then second (first credited)
            else first (second credited)).forwardUp f))))

/-- Every removal of an entry (R61, R37, R95): it leaves the table, the slot's count decrements or its
probe-entry flag clears, and a DRAINING slot left with no entry and no pending fence becomes PARKED with an
empty lost-tag list and an alert of cause DRAINED; nothing else changes. -/
def Obligations.RemovalOfAnEntry : Prop :=
  ∀ (s : State) (e : Entry),
    let l := s.table.filter fun x => !decide (x.key = e.key)
    let r : SlotRecord := match e.kind with
      | .request => { s.slot e.slot with requestCount := (s.slot e.slot).requestCount - 1 }
      | .probe => { s.slot e.slot with probeEntry := false }
    let drained := r.state = .draining ∧ r.requestCount = 0 ∧ r.probeEntry = false ∧
      r.fencePending = false
    (¬ drained → s.removeEntry e = { s with table := l, slots := s.slots.set e.slot r }) ∧
    (drained → s.removeEntry e =
      { s with
        table := l
        slots := s.slots.set e.slot { r with state := .parked, lostTags := [] } }.queueAlert
      (.slotState (s.mgmt.watchBase + e.slot.val) .draining .parked .drained))

/-- A probe ends (R152, R153, R154): by an answer that carries the tag of the probe in flight from its
slot, ANSWERED_OK when the slot has no probe answer digest or the digest is equal, else ANSWERED_WRONG; or
by the deadline of its entry, NO_ANSWER. The frame is withdrawn, the last result and the slot's last
outcome written, the PROBE entry removed, the engine IDLE; then ANSWERED_OK clears the VERDICT source of a
FENCED slot, and a failure hands PROBE_FAIL to the verdict unit. The answer is absorbed. Any other answer
of this monitor's probe traffic is stale and only counted (R157). With the engine IDLE, or at another tick than
the deadline of the PROBE entry, the deadline does not occur (R23, R153, R158; log entry 2). -/
def Obligations.ProbesEnd : Prop :=
  ∀ (s : State) (f : Frame) (i : SlotIndex) (a b : Bool),
    let stage : State := { s with trunk := { s.trunk with downStage := none } }
    let last (p : InFlight) (o : ProbeOutcome) (x : Option ProbeAnswer) : LastResult :=
      ⟨some ⟨p.addr, p.tag, p.origin⟩, o, x, true⟩
    let closed (t : State) (p : InFlight) (e : Entry) (o : ProbeOutcome) (x : Option ProbeAnswer) :
        State :=
      { ({ t with
            engine := { s.engine with pendingFrame := none, last := last p o x }
            slots := s.slots.set p.slot { s.slot p.slot with lastProbe := o } }.removeEntry e) with
          engine := { s.engine with pendingFrame := none, last := last p o x, inFlight := none } }
    let traffic := (tagMarker f.tag = s.engine.marker ∧ tagChain f.tag = s.mgmt.chain) ∨
      ∃ e, s.findEntry i f.tag = some e ∧ e.kind = .probe
    (s.trunk.downStage = some f → f.kind = 2 → s.mgmt.mode = .watching →
      s.trunk.ascBuffer.length < 8 → s.Addresses f.slot i → traffic →
      (∀ p e, s.engine.inFlight = some p → p.slot = i → p.tag = f.tag →
        s.findEntry i f.tag = some e →
        let x : ProbeAnswer := ⟨min 65535 (s.time.tick - p.launch).toNat, crc f.payload⟩
        ((s.slot i).config.probeDigest = none ∨
            (s.slot i).config.probeDigest = some (crc f.payload) →
          let u := closed stage p e .answeredOk (some x)
          exec (.takeDownFrame a b) s = .next
            (if (u.slot i).state = .fenced then u.setSlot i { u.slot i with verdict := false }
             else u)) ∧
        (∀ d, (s.slot i).config.probeDigest = some d → d ≠ crc f.payload →
          exec (.takeDownFrame a b) s = .next
            ((closed stage p e .answeredWrong (some x)).raiseVerdict i .probeFail 0 none
              (some f.tag)))) ∧
      ((∀ p, s.engine.inFlight = some p → ¬ (p.slot = i ∧ p.tag = f.tag)) →
        exec (.takeDownFrame a b) s = .next { stage with
          engine := { s.engine with stale := min 65535 (s.engine.stale + 1) } })) ∧
    (∀ p e, s.engine.inFlight = some p → s.findEntry p.slot p.tag = some e → e.kind = .probe →
      e.deadline = s.time.tick →
      exec .probeDeadline s = .next
        ((closed s p e .noAnswer none).raiseVerdict p.slot .probeFail 0 none (some p.tag))) ∧
    (s.engine.inFlight = none ∨
        (∃ p, s.engine.inFlight = some p ∧
          ∀ e, s.findEntry p.slot p.tag = some e → e.kind = .request ∨ e.deadline ≠ s.time.tick) →
      exec .probeDeadline s = .next s)

/-! ### Timed events of entries -/

/-- The deadline event (R56): a due OPEN entry becomes OVERDUE and nothing else changes, not its loss tick,
retry count or partner; a HELD or OVERDUE entry and a PROBE entry take none of it (the probe's deadline is
PROBE_DEADLINE), nor does an entry whose grace is 0 (log entry 20). The loss event (R57, R58, R60, R82) of a
due OVERDUE entry, or of a due OPEN entry whose grace is 0: a loss credited, the tag on the
lost-tag list (from its old place, or dropping the oldest of 8), the entry removed; a HELD partner is
removed, first (log entry 25), an OPEN or OVERDUE partner stays unpaired. A HELD entry, a PROBE entry and an
OPEN entry with grace take no loss, nor does any entry at another tick (R23, R38, R57). An event that does not
occur, of an entry that is not there among them, changes nothing (log entry 2). -/
def Obligations.DeadlineAndLossOfAnEntry : Prop :=
  (∀ (s : State) (i : SlotIndex) (tag : Tag), s.findEntry i tag = none →
    exec (.entryDeadline i tag) s = .next s ∧ exec (.entryLoss i tag) s = .next s) ∧
  (∀ (s : State) (e : Entry), s.findEntry e.slot e.tag = some e →
    (e.kind = .probe ∨ e.loss ≠ s.time.tick ∨ e.state = .held ∨
        (e.state = .opened ∧ e.loss ≠ e.deadline)) →
      exec (.entryLoss e.slot e.tag) s = .next s) ∧
  (∀ (s : State) (e : Entry), s.findEntry e.slot e.tag = some e →
    (e.kind = .request → e.state = .opened → e.deadline = s.time.tick → e.loss ≠ e.deadline →
      exec (.entryDeadline e.slot e.tag) s = .next { s with table := s.table.map fun x =>
        if x.key = ⟨e.slot, e.tag⟩ then { x with state := .overdue } else x }) ∧
    (e.kind = .probe ∨ e.state ≠ .opened ∨ e.deadline ≠ s.time.tick ∨ e.loss = e.deadline →
      exec (.entryDeadline e.slot e.tag) s = .next s)) ∧
  (∀ (s : State) (e : Entry), s.findEntry e.slot e.tag = some e → e.kind = .request →
    e.loss = s.time.tick → (e.state = .overdue ∨ (e.state = .opened ∧ e.loss = e.deadline)) →
    let r := s.slot e.slot
    let tags :=
      if e.tag ∈ r.lostTags then r.lostTags.erase e.tag ++ [e.tag]
      else if r.lostTags.length < 8 then r.lostTags ++ [e.tag]
      else r.lostTags.drop 1 ++ [e.tag]
    let counted : State := { s with
      slots := s.slots.set e.slot { r.credit .losts with lostTags := tags } }
    (e.partner = none → exec (.entryLoss e.slot e.tag) s = .next (counted.removeEntry e)) ∧
    (∀ k p, e.partner = some k → s.findEntry k.slot k.tag = some p →
      (p.state = .held →
        exec (.entryLoss e.slot e.tag) s = .next ((counted.removeEntry p).removeEntry e)) ∧
      (p.state ≠ .held →
        let unpaired : State := { counted with table := s.table.map fun x =>
          if x.key = k then { x with partner := none, pairWindow := none } else x }
        exec (.entryLoss e.slot e.tag) s = .next (unpaired.removeEntry e))))

/-- The twin-window expiry of a HELD entry (R80): the entry removed, its partner unpaired and straggled, a
straggle credited to the partner's slot and a STRAGGLE condition raised against it, with the HELD entry's
slot address and the tag. An entry that is not HELD takes none, nor does a HELD one at another tick than its
twin-window expiry, nor an entry that is not there (R23, R76, R84; that the state then stands is log entry 2). -/
def Obligations.TwinWindowExpiryRaisesStraggle : Prop :=
  (∀ (s : State) (i : SlotIndex) (tag : Tag),
    (∀ e, s.findEntry i tag = some e →
      e.kind = .probe ∨ e.state ≠ .held ∨ e.twinExpiry ≠ some s.time.tick) →
    exec (.twinWindowExpiry i tag) s = .next s) ∧
  ∀ (s : State) (e : Entry) (j : SlotIndex), s.findEntry e.slot e.tag = some e → e.kind = .request →
    e.state = .held → e.twinExpiry = some s.time.tick → e.partner = some ⟨j, e.tag⟩ →
    let gone := s.removeEntry e
    let marked : State := { gone with
      table := gone.table.map fun x =>
        if x.key = ⟨j, e.tag⟩ then
          { x with partner := none, pairWindow := none, straggled := true }
        else x
      slots := gone.slots.set j ((gone.slot j).credit .straggles) }
    exec (.twinWindowExpiry e.slot e.tag) s = .next
      (marked.raiseVerdict j .straggle 0 (some (s.mgmt.watchBase + e.slot.val)) (some e.tag))

/-! ### Boundaries, MARK, window close -/

/-- A natural boundary (R25, R26, R27, R28), whatever the order of the slots' turns: each of the 32 slots takes
one turn, those named first in the order named (R109; log entry 4). The time base moves first; then come the
turns, which read the start tick of the window that ends; then, at a census instant, the census (R170, R171) and,
in WATCHING, the snapshot with cause CENSUS (R194). The blocks that no boundary touches stand. With no
watched slot (so always outside WATCHING) each PARKED slot rolls its counters over and counts its pacing
holds down (R103, R167), a VACANT slot is unchanged, and nothing becomes of table and engine. In STARTING, and
while the window counter is below the active length, no boundary occurs (R21, R25; that the state then stands is
log entry 2). -/
def Obligations.NaturalBoundary : Prop :=
  (∀ (s : State) (turns : List SlotIndex),
    s.mgmt.mode = .starting ∨ s.time.windowCounter < s.time.activeLength →
    exec (.naturalBoundary turns) s = .next s) ∧
  ∀ (s : State) (turns : List SlotIndex), s.mgmt.mode ≠ .starting →
    s.time.activeLength ≤ s.time.windowCounter →
    let census := s.time.postscale ≠ 0 ∧ s.time.postscale ≤ s.time.postscaleCount + 1
    let opened : State := { s with time := { s.time with
      windowNumber := s.time.windowNumber + 1
      activeLength := s.time.latchedLength.getD s.time.activeLength
      latchedLength := none
      windowCounter := 0
      windowStart := s.time.tick
      postscaleCount :=
        if s.time.postscale = 0 ∨ s.time.postscale ≤ s.time.postscaleCount + 1 then 0
        else s.time.postscaleCount + 1 } }
    let closed := (turnSequence turns).foldl (State.slotTurn s.time.windowStart) opened
    let counted := if census then closed.censusInstant else closed
    let frozen (t : State) : State := { t with mgmt := { t.mgmt with snapshot :=
      ⟨.census, s.time.windowNumber + 1, s.time.tick, Vector.ofFn fun i =>
        ⟨(t.slot i).state, (t.slot i).requestCount, t.oldestAge i, (t.slot i).lastWindow,
          (t.slot i).totals⟩⟩ } }
    (turnSequence turns).Perm (List.finRange 32) ∧
    (turns.Nodup → turns <+: turnSequence turns) ∧
    ∃ t, exec (.naturalBoundary turns) s = .next t ∧
      t = (if census ∧ s.mgmt.mode = .watching then frozen counted else counted) ∧
      t.time = opened.time ∧
      t.trunk = s.trunk ∧ t.policy = s.policy ∧ t.store = s.store ∧ t.pending = s.pending ∧
      t.mgmt = { s.mgmt with flags := t.mgmt.flags, snapshot := t.mgmt.snapshot } ∧
      t.report.bounceQueue = s.report.bounceQueue ∧
      t.engine = { s.engine with requests := t.engine.requests } ∧
      (∀ i, (t.slot i).config = (s.slot i).config) ∧
      (census → t.report.periodVerdicts = 0) ∧
      (census → s.mgmt.mode = .watching → t.mgmt.snapshot.cause = .census ∧
        t.mgmt.snapshot.windowNumber = s.time.windowNumber + 1 ∧
        t.mgmt.snapshot.tick = s.time.tick ∧
        ∀ i : SlotIndex, t.mgmt.snapshot.records[i].lastWindow = (t.slot i).lastWindow) ∧
      (¬ census ∨ s.mgmt.mode ≠ .watching → t.mgmt.snapshot = s.mgmt.snapshot) ∧
      ((∀ i, (s.slot i).state = .vacant ∨ (s.slot i).state = .parked) →
        t.table = s.table ∧ t.engine = s.engine ∧
        (¬ census → t.report = s.report) ∧
        (∀ i, (s.slot i).state = .vacant → t.slot i = s.slot i) ∧
        (∀ i, (s.slot i).state = .parked → t.slot i = { s.slot i with
          lastWindow := (s.slot i).window
          window := .zero
          pacing := (s.slot i).pacing.map fun h => min (s.policySet i).quietGap (h - 1) }))

/-- The census instant's alert (R165, R170, R171): in WATCHING the CENSUS record of the figures as they
stand joins an outbox with room, and a full outbox leaves it owed with the period's verdicts added; outside
WATCHING there is none. The period verdict count returns to 0. -/
def Obligations.CensusInstant : Prop :=
  ∀ s : State,
    let number (st : SlotState) : Nat :=
      ((List.finRange 32).filter fun i => decide ((s.slot i).state = st)).length
    let counts : StateCounts := ⟨number .vacant, number .parked, number .probation, number .live,
      number .suspect, number .draining, number .fenced⟩
    (s.mgmt.mode ≠ .watching →
      s.censusInstant = { s with report := { s.report with periodVerdicts := 0 } }) ∧
    (s.mgmt.mode = .watching → s.report.outbox.length < 32 → ∃ oldest minimum,
      s.censusInstant = { s with report := { s.report with
        periodVerdicts := 0
        outbox := s.report.outbox ++ [⟨.census s.time.windowNumber counts s.table.length oldest
          minimum s.report.periodVerdicts, s.mgmt.chain⟩] } } ∧
      (∀ i, s.oldestAge i ≤ oldest) ∧ (oldest = 0 ∨ ∃ i, s.oldestAge i = oldest) ∧
      (∀ i, (s.slot i).state = .live → minimum ≤ (s.slot i).lastWindow.completions) ∧
      minimum ≤ 65535 ∧
      (minimum = 65535 ∨ ∃ i, (s.slot i).state = .live ∧
        (s.slot i).lastWindow.completions = minimum)) ∧
    (s.mgmt.mode = .watching → 32 ≤ s.report.outbox.length →
      s.censusInstant = { s with report := { s.report with
        periodVerdicts := 0
        censusOwed := true
        owedVerdicts := min 65535 (s.report.owedVerdicts + s.report.periodVerdicts) } })

/-- A sample of MARK (R29, R30, R31). In STARTING the line is not sampled. A sample that is low, or high after a
high one, is only recorded (the sample's level is an operand, log entry 12); high after low is the edge. With
ALIGN disabled, or the window counter at 0, the commit and the snapshot of the edge are all it does. With ALIGN
enabled and the counter at 1 or more a boundary is made as a natural one is: the time base, the turns of all
slots, the census; the commit, then, comes after the closes, and so do the snapshots of the edge and of the
census, in either order (log entry 6). The turns read the tables that were active before the edge. -/
def Obligations.MarkEdge : Prop :=
  ∀ (s : State) (level : Bool) (turns : List SlotIndex) (last : Bool),
    let m := s.time.markEnables
    let sampled : State := { s with time := { s.time with markSample := level } }
    let committed (t : State) : State :=
      if m.commit = true then
        { t with
          policy := { t.policy with active := t.policy.staged }
          mgmt := { t.mgmt with activeProfiles := t.mgmt.stagedProfiles } }
      else t
    let frozen (cause : SnapshotCause) (t : State) : State :=
      { t with mgmt := { t.mgmt with snapshot :=
        ⟨cause, t.time.windowNumber, s.time.tick, Vector.ofFn fun i =>
          ⟨(t.slot i).state, (t.slot i).requestCount, t.oldestAge i, (t.slot i).lastWindow,
            (t.slot i).totals⟩⟩ } }
    let byMark (t : State) : State := if m.snapshot = true then frozen .mark t else t
    (s.mgmt.mode = .starting → exec (.markEdge level ⟨turns, last⟩) s = .next s) ∧
    (s.mgmt.mode ≠ .starting → level = false ∨ s.time.markSample = true →
      exec (.markEdge level ⟨turns, last⟩) s = .next sampled) ∧
    (s.mgmt.mode ≠ .starting → level = true → s.time.markSample = false →
      (m.align = false ∨ s.time.windowCounter = 0 →
        exec (.markEdge level ⟨turns, last⟩) s = .next (byMark (committed sampled))) ∧
      (m.align = true → 1 ≤ s.time.windowCounter →
        let census := s.time.postscale ≠ 0 ∧ s.time.postscale ≤ s.time.postscaleCount + 1
        let opened : State := { sampled with time := { sampled.time with
          windowNumber := s.time.windowNumber + 1
          activeLength := s.time.latchedLength.getD s.time.activeLength
          latchedLength := none
          windowCounter := 0
          windowStart := s.time.tick
          postscaleCount :=
            if s.time.postscale = 0 ∨ s.time.postscale ≤ s.time.postscaleCount + 1 then 0
            else s.time.postscaleCount + 1 } }
        let closed := (turnSequence turns).foldl (State.slotTurn s.time.windowStart) opened
        let u := committed (if census then closed.censusInstant else closed)
        let byCensus (t : State) : State :=
          if census ∧ s.mgmt.mode = .watching then frozen .census t else t
        exec (.markEdge level ⟨turns, last⟩) s =
          .next (if last = true then byCensus (byMark u) else byMark (byCensus u)) ∧
        (turnSequence turns).Perm (List.finRange 32) ∧
        u.time = opened.time ∧ u.trunk = s.trunk ∧ u.store = s.store ∧ u.pending = s.pending ∧
        u.engine = { s.engine with requests := u.engine.requests } ∧
        u.report.bounceQueue = s.report.bounceQueue ∧
        (∀ i, (u.slot i).config = (s.slot i).config) ∧
        u.policy = ⟨if m.commit = true then s.policy.staged else s.policy.active, s.policy.staged⟩ ∧
        u.mgmt = { s.mgmt with
          flags := u.mgmt.flags
          activeProfiles :=
            if m.commit = true then s.mgmt.stagedProfiles else s.mgmt.activeProfiles }))

/-- The turn of a slot at a boundary, by its state (R109, R103): VACANT nothing, PARKED the counter rollover
with its pacing holds (R167), and the first step of every other slot's window close: no condition is found
in a FENCED or a settling slot, the settling count goes down by one (R110). The window verdicts (R119, R120,
R121): of a slot that is neither FENCED nor settling the four conditions are found on the counters and the
age order as they stand before any acts, and raised in the order STALL, MISS_RUN, LATE_RUN, STRAY_RUN. -/
def Obligations.TurnOfASlotAndItsWindowVerdicts : Prop :=
  (∀ (s : State) (i : SlotIndex) (start : Tick),
    ((s.slot i).state = .vacant → s.slotTurn start i = s) ∧
    ((s.slot i).state = .parked → s.slotTurn start i = s.setSlot i { s.slot i with
      lastWindow := (s.slot i).window
      window := .zero
      pacing := (s.slot i).pacing.map fun h => min (s.policySet i).quietGap (h - 1) }) ∧
    ((s.slot i).state = .fenced ∨ (s.slot i).settling ≠ 0 →
      s.closeStep1 i start = s.setSlot i { s.slot i with settling := (s.slot i).settling - 1 })) ∧
  (∀ (s : State) (i : SlotIndex) (start : Tick), (s.slot i).state ≠ .fenced → (s.slot i).settling = 0 →
    let w := (s.slot i).window
    let p := s.policySet i
    let stall (t : State) : State :=
      match (s.ageOrder i).head? with
      | none => t
      | some e =>
        if w.completions = 0 ∧ w.tardies = 0 ∧ 1 ≤ (start - e.arrival).toNat ∧
            (start - e.arrival).toNat ≤ 2147483647 then
          t.raiseVerdict i .stall (min 65535 (s.time.tick - e.arrival).toNat) none (some e.tag)
        else t
    let count (k : VerdictKind) (threshold n : Nat) (t : State) : State :=
      if threshold ≤ n then t.raiseVerdict i k n none none else t
    let u := count .strayRun p.strayThreshold w.strays
      (count .lateRun p.lateThreshold (w.lates + w.tardies)
        (count .missRun p.missThreshold w.losts (stall s)))
    s.closeStep1 i start = u.setSlot i { u.slot i with settling := (u.slot i).settling - 1 })

/-- The window close of a slot against which no condition is found, with no fence pending (R110 to R113, R99,
R102, R150, R167): the clean run by the adverse flag; a PROBATION or SUSPECT slot whose clean run has reached
its windows becomes LIVE; the ramp of a PROBATION slot that has settled; the quiet count and, at the quiet
period, a quiet request for a slot that has none; holds and counters. -/
def Obligations.CloseOfAnUntroubledSlot : Prop :=
  ∀ (s : State) (i : SlotIndex) (start : Tick),
    let r := s.slot i
    let p := s.policySet i
    ((s.slot i).state.accepting = true ∨ (s.slot i).state = .draining) → r.fencePending = false →
    (r.settling ≠ 0 ∨
      (r.window.losts < p.missThreshold ∧ r.window.lates + r.window.tardies < p.lateThreshold ∧
        r.window.strays < p.strayThreshold ∧
        (r.window.completions ≠ 0 ∨ r.window.tardies ≠ 0 ∨ s.ageOrder i = []))) →
    let clean := if r.adverse = true then 0 else min 15 (r.cleanRun + 1)
    let base : SlotRecord := { r with
      settling := r.settling - 1
      cleanRun := clean
      adverse := false
      lastWindow := r.window
      window := .zero
      pacing := r.pacing.map fun h => min p.quietGap (h - 1) }
    let quiet (n : Nat) : Nat := if r.window.arrivals = 0 then min 255 (n + 1) else 0
    let live (n : Nat) (c : Nat) (t : State) : State :=
      let due := s.engine.quietPeriod ≠ 0 ∧ s.engine.quietPeriod ≤ quiet n
      let t' := t.setSlot i { base with
        state := .live, ceiling := c, quiet := if due then 0 else quiet n }
      if due ∧ s.request? i = none then t'.setRequest i (some .quiet) else t'
    (r.state = .live → s.slotTurn start i = live r.quiet r.ceiling s) ∧
    (r.state = .probation → p.probationWindows ≤ clean →
      s.slotTurn start i = live 0 r.config.ceiling (s.queueAlert
        (.slotState (s.mgmt.watchBase + i.val) .probation .live .probationDone))) ∧
    (r.state = .suspect → p.confirmWindows ≤ clean →
      s.slotTurn start i = live 0 r.ceiling (s.queueAlert
        (.slotState (s.mgmt.watchBase + i.val) .suspect .live .confirmed))) ∧
    (r.state = .probation → clean < p.probationWindows →
      s.slotTurn start i = s.setSlot i { base with
        quiet := 0
        ceiling := if r.settling ≤ 1 then min r.config.ceiling (r.ceiling + r.config.rampStep)
          else r.ceiling }) ∧
    (r.state = .suspect → clean < p.confirmWindows →
      s.slotTurn start i = s.setSlot i { base with quiet := 0 }) ∧
    (r.state = .draining → s.slotTurn start i = s.setSlot i { base with quiet := 0 })

/-- The window close of a FENCED slot (R110, R112, R113, R150): with no source set and auto-restore on it
enters PROBATION with cause RESTORE; with auto-restore on and the VERDICT source set windows-since-probe
advances, and at the recovery period returns to 0 and a recovery request joins the set unless the slot has
one; otherwise it stays as it is. -/
def Obligations.CloseOfAFencedSlot : Prop :=
  ∀ (s : State) (i : SlotIndex) (start : Tick),
    let r := s.slot i
    let p := s.policySet i
    r.state = .fenced → r.fencePending = false →
    let clean := if r.adverse = true then 0 else min 15 (r.cleanRun + 1)
    let base : SlotRecord := { r with
      settling := r.settling - 1
      cleanRun := clean
      adverse := false
      quiet := 0
      lastWindow := r.window
      window := .zero
      pacing := r.pacing.map fun h => min p.quietGap (h - 1) }
    (r.manual = false → r.verdict = false → r.config.autoRestore = true →
      s.slotTurn start i =
        (s.queueAlert (.slotState (s.mgmt.watchBase + i.val) .fenced .probation .restore)).setSlot i
          { base with
            state := .probation, ceiling := r.config.rampStart, cleanRun := 0, settling := 2,
            sinceProbe := 0 }) ∧
    (r.config.autoRestore = true → r.verdict = true →
      (min 255 (r.sinceProbe + 1) < s.engine.recoveryPeriod →
        s.slotTurn start i = s.setSlot i { base with sinceProbe := min 255 (r.sinceProbe + 1) }) ∧
      (s.engine.recoveryPeriod ≤ min 255 (r.sinceProbe + 1) →
        s.slotTurn start i =
          let t := s.setSlot i { base with sinceProbe := 0 }
          if s.request? i = none then t.setRequest i (some .recovery) else t)) ∧
    (r.config.autoRestore = false ∨ (r.manual = true ∧ r.verdict = false) →
      s.slotTurn start i = s.setSlot i base)

/-- Steps 2 to 9 of the window close of a watched slot, whatever its first step has found and raised (R99, R102,
R109 to R113, R150, R167): the clean run by the adverse flag; without a fence pending the promotion to LIVE; a
pending fence, without promotion, is the entry into FENCED; the restore of a FENCED slot without a source; the
ramp; the quiet count, windows-since-probe and the requests they make; the pacing holds; the counters. Each
step reads the state that the steps before it left. -/
def Obligations.StepsTwoToNineOfAWindowClose : Prop :=
  ∀ (s : State) (i : SlotIndex) (start : Tick),
    (s.slot i).state.accepting = true ∨ (s.slot i).state = .draining ∨ (s.slot i).state = .fenced →
    let u := s.closeStep1 i start
    let r := u.slot i
    let p := s.policySet i
    let addr := s.mgmt.watchBase + i.val
    let clean := if r.adverse = true then 0 else min 15 (r.cleanRun + 1)
    let judged : State := u.setSlot i { r with cleanRun := clean, adverse := false }
    let live (ceiling : Nat) (cause : SlotCause) : State :=
      (judged.setSlot i { judged.slot i with state := .live, ceiling := ceiling, quiet := 0 }).queueAlert
        (.slotState addr r.state .live cause)
    let restored (w : State) : State :=
      let x := w.slot i
      if x.state = .fenced ∧ x.manual = false ∧ x.verdict = false ∧ x.config.autoRestore = true then
        (w.setSlot i { x with
          state := .probation, ceiling := x.config.rampStart, cleanRun := 0, adverse := false,
          settling := 2, fencePending := false, quiet := 0, sinceProbe := 0 }).queueAlert
            (.slotState addr .fenced .probation .restore)
      else w
    let finished (w : State) : State :=
      let x := w.slot i
      let probed := x.state = .fenced ∧ x.config.autoRestore = true ∧ x.verdict = true
      let quiet := if x.state = .live ∧ x.window.arrivals = 0 then min 255 (x.quiet + 1) else 0
      let since := if probed then min 255 (x.sinceProbe + 1) else x.sinceProbe
      let quietDue := s.engine.quietPeriod ≠ 0 ∧ x.state = .live ∧ s.engine.quietPeriod ≤ quiet
      let recoveryDue := probed ∧ s.engine.recoveryPeriod ≤ since
      let y := w.setSlot i { x with
        ceiling := if x.state = .probation ∧ x.settling = 0 then
          min x.config.ceiling (x.ceiling + x.config.rampStep) else x.ceiling
        quiet := if quietDue then 0 else quiet
        sinceProbe := if recoveryDue then 0 else since
        pacing := x.pacing.map fun h => min p.quietGap (h - 1)
        lastWindow := x.window
        window := .zero }
      if quietDue ∧ w.request? i = none then y.setRequest i (some .quiet)
      else if recoveryDue ∧ w.request? i = none then y.setRequest i (some .recovery)
      else y
    (r.fencePending = true → s.slotTurn start i = finished (restored (judged.enterFenced i))) ∧
    (r.fencePending = false →
      (r.state = .probation → p.probationWindows ≤ clean →
        s.slotTurn start i = finished (live r.config.ceiling .probationDone)) ∧
      (r.state = .suspect → p.confirmWindows ≤ clean →
        s.slotTurn start i = finished (live r.ceiling .confirmed)) ∧
      ((r.state = .probation → clean < p.probationWindows) →
        (r.state = .suspect → clean < p.confirmWindows) →
        s.slotTurn start i = finished (restored judged)))

/-- A slot's age order: its REQUEST entries in the order of the table, which is that of creation; a new one
joins at the tail. Its oldest age: the age of the head, saturating at 65535, and 0 with no entry (R36). -/
def Obligations.AgeOrderAndOldestAge : Prop :=
  ∀ (s : State) (i : SlotIndex),
    s.ageOrder i = (s.table.filter fun e => decide (e.slot = i ∧ e.kind = .request)) ∧
    (∀ e : Entry, (s.addEntry e).ageOrder i =
      if e.slot = i ∧ e.kind = .request then s.ageOrder i ++ [e] else s.ageOrder i) ∧
    (s.ageOrder i = [] → s.oldestAge i = 0) ∧
    (∀ e rest, s.ageOrder i = e :: rest →
      s.oldestAge i = min 65535 (s.time.tick - e.arrival).toNat)

/-! ### Verdicts and fencing -/

/-- A verdict condition found against a slot (R117, R118, R127, R128, R131, R132, R134): nothing under policy
OFF; else the sticky flag, the adverse flag under CONFIRM and FENCE, and one more verdict in the period; the
record submitted to pacing with the figure saturating at 65535; and then the table of R127: a report alone, a
LIVE slot under CONFIRM made SUSPECT with clean run 0, or the VERDICT source set, with the effect of the
slot's fence gate. (A VACANT slot, which no verdict reaches, is log entry 18. A verdict against a slot that a
FENCE under gate IMMEDIATE has fenced is a report: log entry 31.) -/
def Obligations.RaisedVerdict : Prop :=
  ∀ (s : State) (i : SlotIndex) (k : VerdictKind) (figure : Nat) (partner : Option Nat)
    (tag : Option Tag),
    let r := s.slot i
    let p := (s.policySet i).policies.get k
    let marked : State := { s with
      slots := s.slots.set i { r with
        sticky := r.sticky.set k true
        adverse := r.adverse || decide (p = .confirm) || decide (p = .fence) }
      report := { s.report with periodVerdicts := min 65535 (s.report.periodVerdicts + 1) } }
    let submitted (applied : Policy) (after : SlotState) : State :=
      marked.submitVerdict i k applied after (min 65535 figure) partner tag
    let raised := s.raiseVerdict i k figure partner tag
    (p = .off → raised = s) ∧
    (p ≠ .off → r.state.accepting = false → raised = submitted .report r.state) ∧
    (p = .report → raised = submitted .report r.state) ∧
    (p = .confirm → r.state = .live →
      raised =
        let t := submitted .confirm .suspect
        (t.setSlot i { t.slot i with cleanRun := 0, state := .suspect }).queueAlert
          (.slotState (s.mgmt.watchBase + i.val) .live .suspect .verdict)) ∧
    ((p = .fence ∧ r.state.accepting = true) ∨
        (p = .confirm ∧ (r.state = .suspect ∨ r.state = .probation)) →
      (r.config.gate = .immediate →
        raised =
          let t := submitted p .fenced
          (t.setSlot i { t.slot i with verdict := true }).enterFenced i) ∧
      (r.config.gate = .boundary →
        raised =
          let t := submitted p r.state
          t.setSlot i { t.slot i with verdict := true, fencePending := true }))

/-- Entry into FENCED (R139, R63, R83) in a table that agrees with the slots: state, pending fence and
windows-since-probe; no REQUEST entry of the slot is left; every PROBE entry stays, and every REQUEST entry of
another slot but a HELD partner of a removed entry, itself or unpaired; the slot's configuration, sources,
ceiling, runs, counters, totals, latency FIFO, sticky flags and lost-tag list stand; every other slot keeps its
record but for the count of its entries and, where a removed partner was the last entry of a DRAINING slot, its
end of the drain (R95); the other blocks stand; the alerts: ORPHAN with
the count when it is not 0, then SLOT_STATE, cause VERDICT when that source is set, else COMMAND (the alerts
that R95 queues for other slots stand before them). -/
def Obligations.EntryIntoFenced : Prop :=
  ∀ (s : State) (i : SlotIndex), s.TableConsistent →
    let r := s.slot i
    let t := s.enterFenced i
    let count := (s.ageOrder i).length
    let drained (j : SlotIndex) : Prop :=
      (s.slot j).state = .draining ∧ (s.slot j).fencePending = false ∧
      (s.slot j).probeEntry = false ∧ t.ageOrder j = [] ∧
      ∃ e ∈ s.table, e.slot = j ∧ e.kind = .request ∧ e.state = .held ∧
        ∃ x ∈ s.ageOrder i, x.partner = some e.key
    t = { s with
      table := t.table
      slots := t.slots
      report := { s.report with outbox := t.report.outbox, lostCount := t.report.lostCount }
      mgmt := { s.mgmt with flags := t.mgmt.flags } } ∧
    (∀ j, j ≠ i →
      (drained j → t.slot j = { s.slot j with
        requestCount := 0, state := .parked, lostTags := [] }) ∧
      (¬ drained j → t.slot j = { s.slot j with requestCount := (t.ageOrder j).length })) ∧
    t.slot i = { r with state := .fenced, fencePending := false, sinceProbe := 0, requestCount := 0 } ∧
    t.ageOrder i = [] ∧
    (∀ e ∈ s.table, e.kind = .probe → e ∈ t.table) ∧
    (∀ e ∈ s.table, e.kind = .request → e.slot ≠ i →
      (∀ x ∈ s.ageOrder i, x.partner ≠ some e.key) → e ∈ t.table) ∧
    (∀ e ∈ s.table, e.kind = .request → e.slot ≠ i → e.state ≠ .held →
      (∃ x ∈ s.ageOrder i, x.partner = some e.key) →
      { e with partner := none, pairWindow := none } ∈ t.table) ∧
    (∀ e ∈ s.table, e.kind = .request → e.slot ≠ i → e.state = .held →
      (∃ x ∈ s.ageOrder i, x.partner = some e.key) → ∀ x ∈ t.table, x.key ≠ e.key) ∧
    (count = 0 → s.report.outbox.length < 32 → t.report.outbox = s.report.outbox ++
      [⟨.slotState (s.mgmt.watchBase + i.val) r.state .fenced
        (if r.verdict = true then .verdict else .command), s.mgmt.chain⟩]) ∧
    (count ≠ 0 → t.report.outbox.length < 32 →
      ∃ earlier, t.report.outbox = s.report.outbox ++ earlier ++
        [⟨.orphan (s.mgmt.watchBase + i.val) count, s.mgmt.chain⟩,
          ⟨.slotState (s.mgmt.watchBase + i.val) r.state .fenced
            (if r.verdict = true then .verdict else .command), s.mgmt.chain⟩])

/-! ### Management commands: the checks every copy takes -/

/-- The addressing and length checks of R182 (steps 2 and 3) by the catalogue of R180 and the lengths of
R198, for every command: an own-addressed copy so refused is answered STATE or RANGE, any other is ignored
with CMD_DROPPED (the copies of ENUMERATE and CENSUS_QUERY that need a reply at the end of the chain are stated
apart). The answers of the end-of-chain monitor to an all-addressed ENUMERATE or CENSUS_QUERY
of a wrong length (R182, step 3): RANGE. A copy with no command code, or with a code outside 01h to 1Dh
(R182, step 1): answered UNKNOWN when own-addressed, else ignored with CMD_DROPPED. The reply to an empty
payload carries code 00h (chapter 9, note 1). -/
def Obligations.CommandChecks : Prop :=
  (∀ (c : Instr) (code : Byte) (cls : CommandClass) (width : Nat), (c, code, cls, width) ∈ commandForms →
    ∀ (s : State) (ps : List Byte) (seq : Byte) (how : Addressing), s.Holds code ps seq how →
      (cls = .own → how ≠ .own → exec c s = .next (s.turnedAway code seq how 2)) ∧
      (cls = .all → how ≠ .all → exec c s = .next (s.turnedAway code seq how 2)) ∧
      (cls = .own → how = .own → ps.length ≠ width → exec c s = .next (s.turnedAway code seq how 3)) ∧
      (cls = .group → ps.length ≠ width → exec c s = .next (s.turnedAway code seq how 3)) ∧
      (cls = .all → how = .all → s.trunk.endStrap = false → ps.length ≠ width →
        exec c s = .next (s.turnedAway code seq how 3))) ∧
  (∀ (s : State) (ps : List Byte) (seq : Byte), s.mgmt.mode ≠ .starting → s.trunk.endStrap = true →
    s.mgmt.replyQueue.length < 4 →
    let refused (code : Byte) : State := { s with mgmt := { s.mgmt with
      command := none
      replyQueue := s.mgmt.replyQueue ++
        [mkFrame 5 0 (s.mgmt.chain.zeroExtend 8) (seq.zeroExtend 32) [code, 0x03]] } }
    (s.mgmt.command = some ⟨0x01 :: ps, seq, .all⟩ → ps.length ≠ 1 →
      exec .enumerate s = .next (refused 0x01)) ∧
    (s.mgmt.command = some ⟨0x1D :: ps, seq, .all⟩ → ps.length ≠ 0 →
      exec .censusQuery s = .next (refused 0x1D))) ∧
  (∀ (s : State) (payload : List Byte) (seq : Byte) (how : Addressing),
    s.mgmt.command = some ⟨payload, seq, how⟩ → s.mgmt.mode ≠ .starting →
    (how = .own → s.mgmt.replyQueue.length < 4) →
    (payload = [] ∨ ∃ code ps, payload = code :: ps ∧ (code = 0 ∨ 0x1D < code.toNat)) →
    exec .unknown s = .next (s.turnedAway (payload.headD 0) seq how 4))

/-! ### Addresses, groups, identity -/

/-- ENUMERATE (R187, R156): the chain address becomes n from 1 to 15, else 0; a change cancels the probe in
flight, before the address changes (log entry 32); the end-of-chain monitor alone answers, with the new
address and n as received. -/
def Obligations.EnumerateSetsTheChainAddress : Prop :=
  ∀ (s : State) (n seq : Byte), s.mgmt.command = some ⟨[0x01, n], seq, .all⟩ →
    s.mgmt.mode ≠ .starting → (s.trunk.endStrap = true → s.mgmt.replyQueue.length < 4) →
    let a : ChainAddr := if 1 ≤ n.toNat ∧ n.toNat ≤ 15 then BitVec.ofNat 4 n.toNat else 0
    let u := if a = s.mgmt.chain then s else s.cancelProbe
    let t : State := { u with mgmt := { u.mgmt with chain := a, command := none } }
    exec .enumerate s = .next
      (if s.trunk.endStrap = true then
        { t with mgmt := { t.mgmt with
            replyQueue := t.mgmt.replyQueue ++
              [mkFrame 5 0 (a.zeroExtend 8) (seq.zeroExtend 32) [0x01, 0x00, n]] } }
       else t)

/-- A launch (R145, R147, R66, R146): the tag of marker, chain address and sequence number, which advances;
numbers whose tags are keys of the slot's entries are passed over, so that no other entry shares the key (R35;
that they are is log entry 28); the PROBE entry; the in-flight record; the slot's request gone; the service pointer; and the probe request
frame. Nothing else changes. Cancelling a probe (R156, R154): the frame withdrawn, the last result and the
slot's last outcome CANCELLED, the PROBE entry removed, the engine IDLE; an IDLE engine has nothing to
cancel. -/
def Obligations.LaunchAndCancelOfAProbe : Prop :=
  (∀ (s : State) (i : SlotIndex) (o : ProbeOrigin), s.table.length < 2048 →
    let tagOf (q : BitVec 12) : Tag := s.engine.marker ++ s.mgmt.chain ++ q
    ∃ k : Nat,
    let seq := s.engine.seq + BitVec.ofNat 12 k
    let tag := tagOf seq
    (∀ m < k, s.findEntry i (tagOf (s.engine.seq + BitVec.ofNat 12 m)) ≠ none) ∧
    s.findEntry i tag = none ∧
    let deadline := s.time.tick + BitVec.ofNat 32 (s.profile s.engine.cls).deadline
    let addr := s.mgmt.watchBase + i.val
    s.launch i o = { s with
      table := s.table ++
        [{ slot := i, tag := tag, cls := s.engine.cls, kind := .probe, state := .opened,
           arrival := s.time.tick, deadline := deadline, loss := deadline, retries := 0,
           redirected := false, partner := none, pairWindow := none, digest := none,
           twinExpiry := none, straggled := false }]
      slots := s.slots.set i { s.slot i with probeEntry := true }
      engine := { s.engine with
        seq := seq + 1
        inFlight := some ⟨i, addr, tag, o, s.time.tick⟩
        requests := s.engine.requests.set i none
        pointer := i
        pendingFrame := some (mkFrame 1 s.engine.cls (BitVec.ofNat 8 addr) tag []) } }) ∧
  (∀ s : State, (s.engine.inFlight = none → s.cancelProbe = s) ∧
    (∀ p e, s.engine.inFlight = some p → s.findEntry p.slot p.tag = some e →
      s.cancelProbe =
        let l : LastResult := ⟨some ⟨p.addr, p.tag, p.origin⟩, .cancelled, none, true⟩
        { ({ s with
              engine := { s.engine with pendingFrame := none, last := l }
              slots := s.slots.set p.slot { s.slot p.slot with lastProbe := .cancelled } }.removeEntry
            e) with
          engine := { s.engine with pendingFrame := none, last := l, inFlight := none } }))

/-- IDENTIFY (R185, R186, R198): the figures, and the six flags cleared, TABLE_FULL set again while the table
holds 2048 entries and STORE_BAD while the store outcome is not GOOD. -/
def Obligations.IdentifyReadsAndClearsFlags : Prop :=
  ∀ (s : State) (seq : Byte), s.Holds 0x02 [] seq .own →
    let f := s.mgmt.flags
    let bit (b : Bool) (n : Nat) : Nat := if b = true then n else 0
    exec .identify s = .next
      ({ s with mgmt := { s.mgmt with flags :=
          { linkUpErr := false, linkDownErr := false, cmdDropped := false,
            tableFull := decide (2048 ≤ s.table.length), outboxLost := false,
            storeBad := decide (s.store.outcome ≠ StoreOutcome.good) } } }.answered 0x02 seq .own
        ([0x0B, 0x17, 0x21, 0x32, 0x01] ++ be8 s.mgmt.chain.toNat ++ be8 s.mgmt.mode.code
          ++ be8 (bit s.trunk.endStrap 1) ++ be8 s.mgmt.watchBase ++ be8 s.mgmt.groups.toNat
          ++ be8 (bit s.store.writing.isSome 1) ++ be8 s.store.outcome.code ++ be8 s.store.writeCount
          ++ be16 s.trunk.upErrors ++ be16 s.trunk.downErrors ++ be16 s.table.length
          ++ be32 s.time.windowNumber.toNat
          ++ be8 (bit f.linkUpErr 1 + bit f.linkDownErr 2 + bit f.cmdDropped 4 + bit f.tableFull 8
            + bit f.outboxLost 16 + bit f.storeBad 32)
          ++ be32 s.time.tick.toNat))

/-- SET_RANGE (R188) and SET_GROUPS (R179). -/
def Obligations.SetRangeAndSetGroups : Prop :=
  ∀ (s : State) (b seq : Byte),
    (s.Holds 0x06 [b] seq .own →
      (224 < b.toNat → exec .setRange s = .next (s.turnedAway 0x06 seq .own 3)) ∧
      (b.toNat ≤ 224 → s.mgmt.mode = .watching →
        exec .setRange s = .next (s.turnedAway 0x06 seq .own 2)) ∧
      (b.toNat ≤ 224 → s.mgmt.mode ≠ .watching →
        exec .setRange s = .next
          ({ s with mgmt := { s.mgmt with watchBase := b.toNat } }.answered 0x06 seq .own []))) ∧
    (s.Holds 0x07 [b] seq .own →
      (16 ≤ b.toNat → exec .setGroups s = .next (s.turnedAway 0x07 seq .own 3)) ∧
      (b.toNat < 16 → exec .setGroups s = .next
        ({ s with mgmt := { s.mgmt with groups := BitVec.ofNat 4 b.toNat } }.answered 0x07 seq .own
          [])))

/-! ### Modes: claim, release, reset -/

/-- CLAIM (R204, R97) and the claim timeout (R203). In WATCHING a CLAIM changes nothing. Elsewhere the timer
stops, the mode becomes WATCHING, and every PARKED slot set to be taken at a CLAIM enters PROBATION (R91); with room
in the outbox the MODE alert is queued and then the SLOT_STATE alerts of those slots, ascending. The timeout is
taken once the timer has counted it, 5000000 reference clock periods to the 100 ms (log entry 7); before that,
outside UNCLAIMED and with the timer stopped the event does not occur (log entry 2). -/
def Obligations.ClaimAndItsTimeout : Prop :=
  ∀ (s : State) (seq : Byte) (how : Addressing),
    let admitted (i : SlotIndex) : Bool :=
      decide ((s.slot i).state = .parked) && (s.slot i).config.autoAdmit
    (s.Holds 0x03 [] seq how → s.mgmt.mode = .watching →
      exec .claim s = .next (s.answered 0x03 seq how [])) ∧
    (s.Holds 0x03 [] seq how → s.mgmt.mode ≠ .watching →
      ∃ t : State, exec .claim s = .next (t.answered 0x03 seq how []) ∧
        t = { s with
          slots := t.slots
          report := { s.report with outbox := t.report.outbox, lostCount := t.report.lostCount }
          mgmt := { s.mgmt with mode := .watching, claimTimer := none, flags := t.mgmt.flags } } ∧
        (∀ i, t.slot i = if admitted i = true then { s.slot i with
            state := .probation, ceiling := (s.slot i).config.rampStart, cleanRun := 0,
            adverse := false, settling := 2, manual := false, verdict := false,
            fencePending := false, quiet := 0, sinceProbe := 0 }
          else s.slot i) ∧
        (s.report.outbox.length + 1 + ((List.finRange 32).filter admitted).length ≤ 32 →
          t.mgmt.flags = s.mgmt.flags ∧ t.report.lostCount = s.report.lostCount ∧
          t.report.outbox = s.report.outbox ++ [⟨.mode s.mgmt.mode .watching, s.mgmt.chain⟩] ++
            ((List.finRange 32).filter admitted).map fun i =>
              ⟨.slotState (s.mgmt.watchBase + i.val) .parked .probation .claim, s.mgmt.chain⟩)) ∧
    (∀ c, s.mgmt.mode = .unclaimed → s.mgmt.claimTimer = some c → c.timeout * 5000000 ≤ c.periods →
      exec .claimTimeout s = .next
        ({ s with mgmt := { s.mgmt with mode := .transparent, claimTimer := none } }.queueAlert
          (.mode .unclaimed .transparent))) ∧
    (s.mgmt.mode ≠ .unclaimed ∨ s.mgmt.claimTimer = none ∨
        (∃ c, s.mgmt.claimTimer = some c ∧ c.periods < c.timeout * 5000000) →
      exec .claimTimeout s = .next s)

/-- RELEASE (R206, R65, R97, R156). In UNCLAIMED and TRANSPARENT it changes nothing. In WATCHING it is refused
with STATE while a slot is FENCED, DRAINING or fence-pending; otherwise the probe is cancelled, the request set
and the table are emptied, every watched slot becomes PARKED, counters, totals, latency FIFOs and sticky flags
kept, and the mode becomes TRANSPARENT; with room in the outbox a SLOT_STATE alert with cause RELEASE is queued
for each of those slots, ascending, and then the MODE alert. -/
def Obligations.Release : Prop :=
  ∀ (s : State) (seq : Byte) (how : Addressing), s.Holds 0x04 [] seq how →
    let blocked := ∃ i, (s.slot i).state = .fenced ∨ (s.slot i).state = .draining ∨
      (s.slot i).fencePending = true
    (s.mgmt.mode ≠ .watching → exec .release s = .next (s.answered 0x04 seq how [])) ∧
    (s.mgmt.mode = .watching → blocked → exec .release s = .next (s.turnedAway 0x04 seq how 2)) ∧
    (s.mgmt.mode = .watching → ¬ blocked →
      ∃ t : State, exec .release s = .next (t.answered 0x04 seq how []) ∧
        t.trunk = s.trunk ∧ t.time = s.time ∧ t.policy = s.policy ∧ t.store = s.store ∧
        t.pending = s.pending ∧ t.table = [] ∧
        t.mgmt = { s.mgmt with mode := .transparent, flags := t.mgmt.flags } ∧
        t.report = { s.report with
          outbox := t.report.outbox, lostCount := t.report.lostCount } ∧
        (let left := (List.finRange 32).filter fun i => (s.slot i).state.accepting
         s.report.outbox.length + left.length + 1 ≤ 32 →
            t.mgmt.flags = s.mgmt.flags ∧ t.report.lostCount = s.report.lostCount ∧
            t.report.outbox = s.report.outbox ++ (left.map fun i =>
                ⟨.slotState (s.mgmt.watchBase + i.val) (s.slot i).state .parked .release,
                  s.mgmt.chain⟩) ++
              [⟨.mode .watching .transparent, s.mgmt.chain⟩]) ∧
        t.engine.inFlight = none ∧ (∀ i, t.request? i = none) ∧
        (s.engine.inFlight = none → t.engine = { s.engine with requests := t.engine.requests }) ∧
        (∀ p, s.engine.inFlight = some p → t.engine = { s.engine with
          inFlight := none, pendingFrame := none, requests := t.engine.requests,
          last := ⟨some ⟨p.addr, p.tag, p.origin⟩, .cancelled, none, true⟩ }) ∧
        ∀ i,
          let r : SlotRecord := { s.slot i with
            requestCount := 0
            probeEntry := false
            lostTags := []
            lastProbe :=
              if s.engine.inFlight.map InFlight.slot = some i then .cancelled
              else (s.slot i).lastProbe }
          t.slot i = if (s.slot i).state.unwatched = true then r
            else { r with state := .parked, cleanRun := 0, settling := 0, adverse := false })

/-- RESET (R207, R20, R33, R65, R115, R116, R156, R159, R178, R186, R196, R203): always accepted. The time
base keeps divider, divider count, tick and settings, and a boundary that is due is dropped (log entry 30); the
probe in flight is cancelled; table and request set
are empty; each slot's state follows R115; the outbox holds the ARRIVAL alert and the SLOT_STATE alerts of the
slots that changed, ascending, and with them the flags stand; when all 32 slots changed, the last of these alerts
is lost and counted, and OUTBOX_LOST is set (R116, R163); the snapshot is cleared and, in UNCLAIMED, the claim timer starts again. "The state before" is the state before
the RESET (log entry 19). -/
def Obligations.SoftReset : Prop :=
  ∀ (s : State) (seq : Byte) (how : Addressing), s.Holds 0x05 [] seq how →
    let after (r : SlotRecord) : SlotState :=
      if r.state.accepting = true then
        if r.fencePending = true ∧ r.manual = true then .fenced else .probation
      else if r.state = .draining then
        if r.fencePending = true ∧ r.manual = true then .fenced else .parked
      else if r.state = .fenced then if r.manual = true then .fenced else .probation
      else r.state
    let changed := (List.finRange 32).filter fun i => decide (after (s.slot i) ≠ (s.slot i).state)
    ∃ t : State, exec .reset s = .next (t.answered 0x05 seq how []) ∧
      t.trunk = s.trunk ∧ t.policy = s.policy ∧ t.store = s.store ∧ t.pending = s.pending ∧
      t.table = [] ∧
      t.time = { s.time with
        windowNumber := 0
        windowCounter := 0
        windowStart := s.time.tick
        activeLength := s.time.latchedLength.getD s.time.activeLength
        latchedLength := none
        postscaleCount := 0 } ∧
      (t.engine.inFlight = none ∧ (∀ i, t.request? i = none) ∧ t.engine.seq = s.engine.seq ∧
        t.engine.pointer = s.engine.pointer ∧ t.engine.stale = s.engine.stale ∧
        t.engine.marker = s.engine.marker ∧ t.engine.cls = s.engine.cls ∧
        t.engine.quietPeriod = s.engine.quietPeriod ∧
        t.engine.recoveryPeriod = s.engine.recoveryPeriod ∧
        (∀ p, s.engine.inFlight = some p →
          t.engine.last = ⟨some ⟨p.addr, p.tag, p.origin⟩, .cancelled, none, true⟩ ∧
          t.engine.pendingFrame = none) ∧
        (s.engine.inFlight = none → t.engine.last = s.engine.last ∧
          t.engine.pendingFrame = s.engine.pendingFrame)) ∧
      t.mgmt = { s.mgmt with
        command := none
        snapshot := .cleared
        flags := t.mgmt.flags
        claimTimer := if s.mgmt.mode = .unclaimed then some ⟨s.mgmt.claimTimeout, 0⟩
          else s.mgmt.claimTimer } ∧
      (∀ i, t.slot i = { SlotRecord.loaded (s.slot i).config with
        state := after (s.slot i)
        manual := decide (after (s.slot i) = .fenced)
        ceiling := if after (s.slot i) = .probation then (s.slot i).config.rampStart
          else (s.slot i).ceiling
        settling := if after (s.slot i) = .probation then 2 else 0
        lastProbe := if s.engine.inFlight.map InFlight.slot = some i then .cancelled
          else (s.slot i).lastProbe }) ∧
      t.report.bounceQueue = s.report.bounceQueue ∧ t.report.censusOwed = false ∧
      t.report.owedVerdicts = 0 ∧ t.report.periodVerdicts = 0 ∧
      (changed.length ≤ 31 →
        t.mgmt.flags = s.mgmt.flags ∧ t.report.lostCount = 0 ∧
        t.report.outbox =
          ⟨.arrival .soft s.mgmt.mode s.mgmt.chain s.store.loadOutcome 1, s.mgmt.chain⟩ ::
            changed.map fun i => ⟨.slotState (s.mgmt.watchBase + i.val) (s.slot i).state
              (after (s.slot i)) .reset, s.mgmt.chain⟩) ∧
      (changed.length = 32 →
        t.mgmt.flags = { s.mgmt.flags with outboxLost := true } ∧ t.report.lostCount = 1 ∧
        t.report.outbox =
          ⟨.arrival .soft s.mgmt.mode s.mgmt.chain s.store.loadOutcome 1, s.mgmt.chain⟩ ::
            (changed.take 31).map fun i => ⟨.slotState (s.mgmt.watchBase + i.val) (s.slot i).state
              (after (s.slot i)) .reset, s.mgmt.chain⟩)

/-! ### Timing, profiles, policies -/

/-- SET_TIMING (R189, R22, R27, R28, R198): a field outside its range is RANGE; a new divider in WATCHING is
STATE; else every field is set, the window length latched, the postscale count 0, and the divider count 0 when
the divider differs (log entry 27). That MARK enables above 7 and a probe marker above FFFFh are out of range
is log entry 17. -/
def Obligations.SetTiming : Prop :=
  ∀ (s : State) (seq : Byte) (how : Addressing)
    (d1 d0 w1 w0 post quiet recov m3 m2 m1 m0 cls en claim : Byte),
    s.Holds 0x08 [d1, d0, w1, w0, post, quiet, recov, m3, m2, m1, m0, cls, en, claim] seq how →
    let divider := d1.toNat * 256 + d0.toNat
    let length := w1.toNat * 256 + w0.toNat
    let inRange := (divider = 50 ∨ divider = 500 ∨ divider = 5000) ∧ 10 ≤ length ∧ recov ≠ 0 ∧
      m3 = 0 ∧ m2 = 0 ∧ cls.toNat < 16 ∧ en.toNat < 8 ∧ claim ≠ 0
    (¬ inRange → exec .setTiming s = .next (s.turnedAway 0x08 seq how 3)) ∧
    (inRange → s.mgmt.mode = .watching → divider ≠ s.time.divider →
      exec .setTiming s = .next (s.turnedAway 0x08 seq how 2)) ∧
    (inRange → s.mgmt.mode ≠ .watching ∨ divider = s.time.divider →
      exec .setTiming s = .next
        ({ s with
            time := { s.time with
              divider := divider
              dividerCount := if divider = s.time.divider then s.time.dividerCount else 0
              latchedLength := some length
              postscale := post.toNat
              postscaleCount := 0
              markEnables := ⟨en.getLsbD 0, en.getLsbD 1, en.getLsbD 2⟩ }
            engine := { s.engine with
              quietPeriod := quiet.toNat
              recoveryPeriod := recov.toNat
              marker := m1 ++ m0
              cls := BitVec.ofNat 4 cls.toNat }
            mgmt := { s.mgmt with claimTimeout := claim.toNat } }.answered 0x08 seq how []))

/-- WRITE_PROFILE and READ_PROFILE (R191, R190, R198): the staged copy of the class takes the four values;
either copy reads back; a class above 15, a deadline or twin window of 0, a watched flag or a copy other
than 0 and 1 is RANGE. WRITE_POLICY and READ_POLICY (R124, R123, R198): the staged copy of the set takes the
13 values; either copy reads back; a value out of its range is RANGE. -/
def Obligations.ProfilesAndPolicySets : Prop :=
  (∀ (s : State) (seq : Byte) (how : Addressing) (c d1 d0 g1 g0 t1 t0 w copy : Byte),
    (s.Holds 0x09 [c, d1, d0, g1, g0, t1, t0, w] seq how →
      let deadline := d1.toNat * 256 + d0.toNat
      let twin := t1.toNat * 256 + t0.toNat
      (15 < c.toNat ∨ deadline = 0 ∨ twin = 0 ∨ 1 < w.toNat →
        exec .writeProfile s = .next (s.turnedAway 0x09 seq how 3)) ∧
      (∀ hc : c.toNat < 16, deadline ≠ 0 → twin ≠ 0 → w.toNat ≤ 1 →
        let p : ClassProfile := ⟨deadline, g1.toNat * 256 + g0.toNat, twin, decide (w = 1)⟩
        exec .writeProfile s = .next
          ({ s with mgmt := { s.mgmt with
              stagedProfiles := s.mgmt.stagedProfiles.set c.toNat p hc } }.answered
            0x09 seq how []))) ∧
    (s.Holds 0x0A [c, copy] seq .own →
      (15 < c.toNat ∨ 1 < copy.toNat → exec .readProfile s = .next (s.turnedAway 0x0A seq .own 3)) ∧
      (∀ hc : c.toNat < 16, copy.toNat ≤ 1 →
        let p := if copy = 1 then s.mgmt.stagedProfiles[c.toNat] else s.mgmt.activeProfiles[c.toNat]
        exec .readProfile s = .next (s.answered 0x0A seq .own
          (be16 p.deadline ++ be16 p.grace ++ be16 p.twinWindow ++
            [if p.watched = true then 1 else 0]))))) ∧
  (∀ (s : State) (seq : Byte) (how : Addressing)
    (n p0 p1 p2 p3 p4 p5 p6 miss late stray conf prob gap copy : Byte),
    (s.Holds 0x0B [n, p0, p1, p2, p3, p4, p5, p6, miss, late, stray, conf, prob, gap] seq how →
      let inRange := n.toNat < 4 ∧ (∀ p ∈ [p0, p1, p2, p3, p4, p5, p6], p.toNat < 4) ∧ miss ≠ 0 ∧
        late ≠ 0 ∧ stray ≠ 0 ∧ conf ≠ 0 ∧ conf.toNat ≤ 15 ∧ prob ≠ 0 ∧ prob.toNat ≤ 15 ∧
        gap.toNat ≤ 15
      let policy (p : Byte) : Policy :=
        if p = 0 then .off else if p = 1 then .report else if p = 2 then .confirm else .fence
      (¬ inRange → exec .writePolicy s = .next (s.turnedAway 0x0B seq how 3)) ∧
      (inRange → ∀ hn : n.toNat < 4,
        let p : PolicySet :=
          { policies := ⟨policy p0, policy p1, policy p2, policy p3, policy p4, policy p5, policy p6⟩,
            missThreshold := miss.toNat, lateThreshold := late.toNat,
            strayThreshold := stray.toNat, confirmWindows := conf.toNat,
            probationWindows := prob.toNat, quietGap := gap.toNat }
        exec .writePolicy s = .next
          ({ s with policy := { s.policy with
              staged := s.policy.staged.set n.toNat p hn } }.answered 0x0B seq how []))) ∧
    (s.Holds 0x0C [n, copy] seq .own →
      (3 < n.toNat ∨ 1 < copy.toNat → exec .readPolicy s = .next (s.turnedAway 0x0C seq .own 3)) ∧
      (∀ hn : n.toNat < 4, copy.toNat ≤ 1 →
        let p := if copy = 1 then s.policy.staged[n.toNat] else s.policy.active[n.toNat]
        exec .readPolicy s = .next (s.answered 0x0C seq .own
          (be8 p.policies.stall.code ++ be8 p.policies.missRun.code ++ be8 p.policies.lateRun.code
            ++ be8 p.policies.strayRun.code ++ be8 p.policies.diverge.code
            ++ be8 p.policies.straggle.code ++ be8 p.policies.probeFail.code ++ be8 p.missThreshold
            ++ be8 p.lateThreshold ++ be8 p.strayThreshold ++ be8 p.confirmWindows
            ++ be8 p.probationWindows ++ be8 p.quietGap)))))

/-- COMMIT (R192, R124): every staged profile and policy set becomes active within one event; the staged
copies and everything else stand. -/
def Obligations.CommitCopiesStagedToActive : Prop :=
  ∀ (s : State) (seq : Byte) (how : Addressing), s.Holds 0x0D [] seq how →
    exec .commit s = .next
      ({ s with
          policy := { s.policy with active := s.policy.staged }
          mgmt := { s.mgmt with activeProfiles := s.mgmt.stagedProfiles } }.answered 0x0D seq how [])

/-! ### Slot commands -/

/-- A slot address outside the watch range (R70, R71, R87, R92, R93, R96, R106, R108, R136, R137, R148, R195):
RANGE. -/
def Obligations.SlotAddressOutsideTheRange : Prop :=
  ∀ (s : State) (a b seq : Byte) (ps : List Byte), s.OutsideRange a → ps.length = 15 →
    (∀ c code, (c, code) ∈ [(Instr.admitSlot, (0x0E : Byte)), (.park, 0x0F), (.fence, 0x10),
        (.unfence, 0x11), (.vacate, 0x12), (.unpair, 0x14), (.slotStatus, 0x16), (.readSample, 0x17),
        (.readSnapshot, 0x19), (.probe, 0x1A)] →
      s.Holds code [a] seq .own → exec c s = .next (s.turnedAway code seq .own 3)) ∧
    (s.Holds 0x13 [a, b] seq .own → exec .pair s = .next (s.turnedAway 0x13 seq .own 3)) ∧
    (s.Holds 0x13 [b, a] seq .own → exec .pair s = .next (s.turnedAway 0x13 seq .own 3)) ∧
    (s.Holds 0x15 (a :: ps) seq .own →
      exec .configureSlot s = .next (s.turnedAway 0x15 seq .own 3))

/-- ADMIT (R92, R91, R90): of a VACANT or PARKED slot in WATCHING, which enters PROBATION. PARK (R93, R94,
R60) by the slot's state, its entries and its pending fence. -/
def Obligations.AdmitAndPark : Prop :=
  (∀ (s : State) (a seq : Byte) (i : SlotIndex), s.Holds 0x0E [a] seq .own → s.Addresses a i →
    (s.mgmt.mode ≠ .watching → exec .admitSlot s = .next (s.turnedAway 0x0E seq .own 2)) ∧
    ((s.slot i).state ≠ .vacant → (s.slot i).state ≠ .parked →
      exec .admitSlot s = .next (s.turnedAway 0x0E seq .own 2)) ∧
    (s.mgmt.mode = .watching → (s.slot i).state = .vacant ∨ (s.slot i).state = .parked →
      exec .admitSlot s = .next
        (({ s with slots := s.slots.set i { s.slot i with
              state := .probation, ceiling := (s.slot i).config.rampStart, cleanRun := 0,
              adverse := false, settling := 2, manual := false, verdict := false,
              fencePending := false, quiet := 0, sinceProbe := 0 } }.queueAlert
            (.slotState (s.mgmt.watchBase + i.val) (s.slot i).state .probation .command)).answered
          0x0E seq .own []))) ∧
  (∀ (s : State) (a seq : Byte) (i : SlotIndex), s.Holds 0x0F [a] seq .own → s.Addresses a i →
    let r := s.slot i
    let changed (x : SlotRecord) : State :=
      ({ s with slots := s.slots.set i x }.queueAlert
        (.slotState (s.mgmt.watchBase + i.val) r.state x.state .command)).answered 0x0F seq .own []
    (r.state = .vacant → exec .park s = .next (s.turnedAway 0x0F seq .own 2)) ∧
    (r.state = .parked ∨ r.state = .draining → exec .park s = .next (s.answered 0x0F seq .own [])) ∧
    (r.state = .probation ∨ r.state = .live ∨ r.state = .suspect →
      (r.requestCount = 0 ∧ r.probeEntry = false ∧ r.fencePending = false →
        exec .park s = .next (changed { r with state := .parked, lostTags := [] })) ∧
      (r.requestCount ≠ 0 ∨ r.probeEntry = true ∨ r.fencePending = true →
        exec .park s = .next (changed { r with state := .draining }))) ∧
    (r.state = .fenced →
      (r.probeEntry = true → exec .park s = .next (s.turnedAway 0x0F seq .own 1)) ∧
      (r.probeEntry = false → exec .park s = .next (changed { r with
        state := .parked, lostTags := [], manual := false, verdict := false,
        fencePending := false }))))

/-- FENCE (R136, R134): refused on a VACANT or PARKED slot; else the MANUAL source, with the effect of the
slot's gate unless the slot is FENCED. UNFENCE (R137, R91, R95) by the slot's state and pending
fence. -/
def Obligations.FenceAndUnfence : Prop :=
  (∀ (s : State) (a seq : Byte) (i : SlotIndex), s.Holds 0x10 [a] seq .own → s.Addresses a i →
    let r := s.slot i
    let manual : State := { s with slots := s.slots.set i { r with manual := true } }
    (r.state = .vacant ∨ r.state = .parked →
      exec .fence s = .next (s.turnedAway 0x10 seq .own 2)) ∧
    (r.state = .fenced → exec .fence s = .next (manual.answered 0x10 seq .own [])) ∧
    (r.state.accepting = true ∨ r.state = .draining →
      (r.config.gate = .immediate →
        exec .fence s = .next ((manual.enterFenced i).answered 0x10 seq .own [])) ∧
      (r.config.gate = .boundary →
        exec .fence s = .next
          ({ s with slots := s.slots.set i { r with manual := true, fencePending := true } }.answered
            0x10 seq .own [])))) ∧
  (∀ (s : State) (a seq : Byte) (i : SlotIndex), s.Holds 0x11 [a] seq .own → s.Addresses a i →
    let r := s.slot i
    let done (t : State) : State := t.answered 0x11 seq .own []
    let cleared : SlotRecord := { r with manual := false, verdict := false, fencePending := false }
    let withSlot (x : SlotRecord) : State := { s with slots := s.slots.set i x }
    (r.state = .fenced → exec .unfence s = .next (done
      ((withSlot { cleared with
          state := .probation, ceiling := r.config.rampStart, cleanRun := 0, adverse := false,
          settling := 2, quiet := 0, sinceProbe := 0 }).queueAlert
        (.slotState (s.mgmt.watchBase + i.val) .fenced .probation .command)))) ∧
    (r.state.accepting = true → r.fencePending = true →
      exec .unfence s = .next (done (withSlot cleared))) ∧
    (r.state = .draining → r.fencePending = true →
      (r.requestCount ≠ 0 ∨ r.probeEntry = true →
        exec .unfence s = .next (done (withSlot cleared))) ∧
      (r.requestCount = 0 → r.probeEntry = false →
        exec .unfence s = .next (done
          ((withSlot { cleared with state := .parked, lostTags := [] }).queueAlert
            (.slotState (s.mgmt.watchBase + i.val) .draining .parked .drained))))) ∧
    (r.state.accepting = true ∨ r.state = .draining → r.fencePending = false →
      exec .unfence s = .next (s.turnedAway 0x11 seq .own 2)) ∧
    (r.state = .parked ∨ r.state = .vacant →
      exec .unfence s = .next (s.turnedAway 0x11 seq .own 2)))

/-- VACATE (R96, R72, R86): STATE in an accepting state or DRAINING; BUSY on a PARKED or FENCED slot with an
entry; else the record is as never configured, its twin's twin field absent, and a slot that was not VACANT is
reported. -/
def Obligations.Vacate : Prop :=
  ∀ (s : State) (a seq : Byte) (i : SlotIndex), s.Holds 0x12 [a] seq .own → s.Addresses a i →
    let r := s.slot i
    let held := r.requestCount ≠ 0 ∨ r.probeEntry = true
    let config : SlotConfig :=
      { ceiling := 64, rampStart := 4, rampStep := 4, policySet := 0, gate := .immediate,
        autoRestore := false, divisor := 16, standIn := none, probeDigest := none,
        autoAdmit := false, twin := none, configured := false }
    let x : SlotRecord :=
      { config := config, state := .vacant, manual := false, verdict := false, fencePending := false,
        ceiling := 4, requestCount := 0, probeEntry := false, cleanRun := 0, adverse := false,
        settling := 0, window := .zero, lastWindow := .zero, totals := .zero, captureCount := 0,
        latency := [], overflow := false, sticky := .all false, lostTags := [], pacing := .all 0,
        suppressed := .all 0, quiet := 0, sinceProbe := 0, lastProbe := .none }
    let vacated : State := match r.config.twin with
      | none => { s with slots := s.slots.set i x }
      | some j =>
        { s with slots := (s.slots.set j { s.slot j with
            config := { (s.slot j).config with twin := none } }).set i x }
    (r.state.accepting = true ∨ r.state = .draining →
      exec .vacate s = .next (s.turnedAway 0x12 seq .own 2)) ∧
    (r.state = .parked ∨ r.state = .fenced →
      (held → exec .vacate s = .next (s.turnedAway 0x12 seq .own 1)) ∧
      (¬ held → exec .vacate s = .next
        ((vacated.queueAlert (.slotState (s.mgmt.watchBase + i.val) r.state .vacant .command)).answered
          0x12 seq .own []))) ∧
    (r.state = .vacant → ¬ held → exec .vacate s = .next (vacated.answered 0x12 seq .own []))

/-- PAIR (R70): two different slots of the watch range, both VACANT or PARKED and neither with a twin,
become twins and are marked configured. UNPAIR (R71): STATE without a twin, or with either slot neither
VACANT nor PARKED; else both twin fields become absent. -/
def Obligations.PairAndUnpair : Prop :=
  (∀ (s : State) (a b seq : Byte) (i j : SlotIndex), s.Holds 0x13 [a, b] seq .own →
    s.Addresses a i → s.Addresses b j →
    let idle (k : SlotIndex) : Prop := (s.slot k).state = .vacant ∨ (s.slot k).state = .parked
    let twinned (k l : SlotIndex) : SlotRecord :=
      { s.slot k with config := { (s.slot k).config with twin := some l, configured := true } }
    (i = j → exec .pair s = .next (s.turnedAway 0x13 seq .own 3)) ∧
    (i ≠ j → ¬ (idle i ∧ idle j) → exec .pair s = .next (s.turnedAway 0x13 seq .own 2)) ∧
    (i ≠ j → idle i → idle j → (s.slot i).config.twin ≠ none ∨ (s.slot j).config.twin ≠ none →
      exec .pair s = .next (s.turnedAway 0x13 seq .own 2)) ∧
    (i ≠ j → idle i → idle j → (s.slot i).config.twin = none → (s.slot j).config.twin = none →
      exec .pair s = .next
        ({ s with slots := (s.slots.set i (twinned i j)).set j (twinned j i) }.answered
          0x13 seq .own []))) ∧
  (∀ (s : State) (a seq : Byte) (i : SlotIndex), s.Holds 0x14 [a] seq .own → s.Addresses a i →
    let idle (k : SlotIndex) : Prop := (s.slot k).state = .vacant ∨ (s.slot k).state = .parked
    let alone (k : SlotIndex) : SlotRecord :=
      { s.slot k with config := { (s.slot k).config with twin := none } }
    ((s.slot i).config.twin = none → exec .unpair s = .next (s.turnedAway 0x14 seq .own 2)) ∧
    (∀ j, (s.slot i).config.twin = some j →
      (¬ (idle i ∧ idle j) → exec .unpair s = .next (s.turnedAway 0x14 seq .own 2)) ∧
      (idle i → idle j → exec .unpair s = .next
        ({ s with slots := (s.slots.set i (alone i)).set j (alone j) }.answered 0x14 seq .own []))))

/-- CONFIGURE_SLOT (R87, R98, R198): a field out of its range is RANGE; else the ten fields and the configured
mark are set, the twin kept; the current ceiling of a LIVE or SUSPECT slot is the new one, of any other slot at
most it; a new divisor restarts the capture counter. That a presence byte above 1 is out of range, and that the
bytes of an absent stand-in or probe answer digest are ignored, is the model's inference, log entry 17. -/
def Obligations.ConfigureSlot : Prop :=
  ∀ (s : State) (seq a ceil ramp step set gate restore div sp sa dp d3 d2 d1 d0 auto : Byte)
    (i : SlotIndex),
    s.Holds 0x15 [a, ceil, ramp, step, set, gate, restore, div, sp, sa, dp, d3, d2, d1, d0, auto]
      seq .own →
    s.Addresses a i →
    let r := s.slot i
    let inRange := ceil ≠ 0 ∧ ramp ≠ 0 ∧ ramp.toNat ≤ ceil.toNat ∧ step ≠ 0 ∧ set.toNat < 4 ∧
      gate.toNat ≤ 1 ∧ restore.toNat ≤ 1 ∧ (div = 1 ∨ div = 4 ∨ div = 16 ∨ div = 64) ∧
      (sp = 0 ∨ (sp = 1 ∧ ∃ j, s.Addresses sa j ∧ j ≠ i)) ∧ dp.toNat ≤ 1 ∧ auto.toNat ≤ 1
    (¬ inRange → exec .configureSlot s = .next (s.turnedAway 0x15 seq .own 3)) ∧
    (∀ standIn : Option SlotIndex, inRange →
      ((sp = 0 ∧ standIn = none) ∨ (sp = 1 ∧ ∃ j, s.Addresses sa j ∧ standIn = some j)) →
      ∀ hs : set.toNat < 4, exec .configureSlot s = .next
        ({ s with slots := s.slots.set i { r with
            config :=
              { ceiling := ceil.toNat, rampStart := ramp.toNat, rampStep := step.toNat,
                policySet := ⟨set.toNat, hs⟩, gate := if gate = 0 then .immediate else .boundary,
                autoRestore := decide (restore = 1), divisor := div.toNat, standIn := standIn,
                probeDigest := if dp = 1 then some (d3 ++ d2 ++ d1 ++ d0) else none,
                autoAdmit := decide (auto = 1), twin := r.config.twin, configured := true }
            ceiling := if r.state = SlotState.live ∨ r.state = SlotState.suspect then ceil.toNat
              else min r.ceiling ceil.toNat
            captureCount := if div.toNat = r.config.divisor then r.captureCount else 0 } }.answered
          0x15 seq .own []))

/-- SLOT_STATUS (R108, R107, R198): the figures as they stand, and the seven sticky condition flags cleared.
READ_SAMPLE (R106): the oldest sample is removed and read with the overflow flag before the read and the
samples left; a read that empties the FIFO clears the flag. An empty FIFO answers EMPTY and the flag, and
stands. The bytes of the replies are log entry 16. -/
def Obligations.SlotStatusAndReadSample : Prop :=
  (∀ (s : State) (a seq : Byte) (i : SlotIndex), s.Holds 0x16 [a] seq .own → s.Addresses a i →
    let r := s.slot i
    let bit (b : Bool) (n : Nat) : Nat := if b = true then n else 0
    exec .slotStatus s = .next
      ({ s with slots := s.slots.set i { r with sticky := .all false } }.answered 0x16 seq .own
        ([a] ++ be8 r.state.code ++ be8 (bit r.manual 1 + bit r.verdict 2)
          ++ be8 (bit r.fencePending 1) ++ be8 r.config.ceiling ++ be8 r.ceiling
          ++ be16 r.requestCount ++ be8 (bit r.probeEntry 1) ++ be16 (s.oldestAge i)
          ++ be8 r.cleanRun ++ be8 r.settling
          ++ (be16 r.lastWindow.arrivals ++ be16 r.lastWindow.completions ++ be16 r.lastWindow.lates
            ++ be16 r.lastWindow.tardies ++ be16 r.lastWindow.losts ++ be16 r.lastWindow.strays
            ++ be16 r.lastWindow.divergences ++ be16 r.lastWindow.straggles
            ++ be16 r.lastWindow.bounces ++ be16 r.lastWindow.redirects
            ++ be16 r.lastWindow.absorbed)
          ++ (be32 r.totals.arrivals ++ be32 r.totals.completions ++ be32 r.totals.lates
            ++ be32 r.totals.tardies ++ be32 r.totals.losts ++ be32 r.totals.strays
            ++ be32 r.totals.divergences ++ be32 r.totals.straggles ++ be32 r.totals.bounces
            ++ be32 r.totals.redirects ++ be32 r.totals.absorbed)
          ++ be8 r.latency.length ++ be8 (bit r.overflow 1) ++ be8 r.lostTags.length
          ++ be8 (bit r.sticky.stall 1 + bit r.sticky.missRun 2 + bit r.sticky.lateRun 4
            + bit r.sticky.strayRun 8 + bit r.sticky.diverge 16 + bit r.sticky.straggle 32
            + bit r.sticky.probeFail 64)
          ++ be8 r.lastProbe.code))) ∧
  (∀ (s : State) (a seq : Byte) (i : SlotIndex), s.Holds 0x17 [a] seq .own → s.Addresses a i →
    let r := s.slot i
    let flag : Byte := if r.overflow = true then 1 else 0
    (r.latency = [] → exec .readSample s = .next (s.answered 0x17 seq .own [0, 0, 0, 0, 0, flag])) ∧
    (∀ x rest, r.latency = x :: rest → exec .readSample s = .next
      ({ s with slots := s.slots.set i { r with
          latency := rest
          overflow := if rest = [] then false else r.overflow } }.answered 0x17 seq .own
        ([1] ++ be16 x.latency ++ be8 x.cls.toNat ++ [if x.late = true then 1 else 0, flag]
          ++ be8 rest.length))))

/-- A snapshot event (R194) by SNAPSHOT, and READ_SNAPSHOT (R195), whose reply's bytes are log entry 16. -/
def Obligations.Snapshots : Prop :=
  ∀ (s : State) (a seq : Byte) (i : SlotIndex) (how : Addressing),
    (s.Holds 0x18 [] seq how → exec .snapshot s = .next
      ({ s with mgmt := { s.mgmt with snapshot :=
          { cause := .command, windowNumber := s.time.windowNumber, tick := s.time.tick,
            records := Vector.ofFn fun k =>
              { state := (s.slot k).state, requestCount := (s.slot k).requestCount,
                oldestAge := s.oldestAge k, lastWindow := (s.slot k).lastWindow,
                totals := (s.slot k).totals } } } }.answered 0x18 seq how [])) ∧
    (s.Holds 0x19 [a] seq .own → s.Addresses a i →
      let h := s.mgmt.snapshot
      let r := h.records[i]
      exec .readSnapshot s = .next (s.answered 0x19 seq .own
        (be8 h.cause.code ++ be32 h.windowNumber.toNat ++ be32 h.tick.toNat ++ be8 r.state.code
          ++ be16 r.requestCount ++ be16 r.oldestAge ++ r.lastWindow.bytes2 ++ r.totals.bytes4
          ++ [a])))

/-! ### Probes -/

/-- PROBE (R148): STATE outside WATCHING or on a slot neither accepting nor FENCED, BUSY with a probe in
flight; else a launch with origin COMMAND, answered with the tag, or, the table full, the slot's place in the
request set with that origin, answered QUEUED. The tag is that of the sequence number that stands, where no
entry of the slot has it as key (else log entry 28). -/
def Obligations.ProbeCommand : Prop :=
  ∀ (s : State) (a seq : Byte) (i : SlotIndex), s.Holds 0x1A [a] seq .own → s.Addresses a i →
    let tag : Tag := s.engine.marker ++ s.mgmt.chain ++ s.engine.seq
    let probed := (s.slot i).state.accepting = true ∨ (s.slot i).state = .fenced
    (s.mgmt.mode ≠ .watching ∨ ¬ probed → exec .probe s = .next (s.turnedAway 0x1A seq .own 2)) ∧
    (s.mgmt.mode = .watching → probed →
      (s.engine.inFlight ≠ none → exec .probe s = .next (s.turnedAway 0x1A seq .own 1)) ∧
      (s.engine.inFlight = none → s.table.length < 2048 →
        (s.findEntry i tag = none →
          exec .probe s = .next ((s.launch i .command).answered 0x1A seq .own
            ([1] ++ be32 tag.toNat))) ∧
        (∀ p, (s.launch i .command).engine.inFlight = some p →
          exec .probe s = .next ((s.launch i .command).answered 0x1A seq .own
            ([1] ++ be32 p.tag.toNat)))) ∧
      (s.engine.inFlight = none → 2048 ≤ s.table.length →
        exec .probe s = .next
          ({ s with engine := { s.engine with
              requests := s.engine.requests.set i (some .command) } }.answered 0x1A seq .own
            [0, 0, 0, 0, 0])))

/-- A service (R151): the slots are examined in ascending order from after the service pointer, wrapping; the
first eligible request is launched with its origin, and the ineligible ones before it are dropped; with none
eligible the set is left empty. -/
def Obligations.ServiceOfTheRequestSet : Prop :=
  ∀ s : State, s.engine.inFlight = none → s.mgmt.mode = .watching → s.table.length < 2048 →
    (∃ i, s.request? i ≠ none) →
    let eligible (i : SlotIndex) : Prop :=
      (s.request? i = some .quiet ∧ (s.slot i).state = .live) ∨
      (s.request? i = some .recovery ∧ (s.slot i).state = .fenced ∧
        (s.slot i).config.autoRestore = true ∧ (s.slot i).verdict = true) ∨
      (s.request? i = some .command ∧
        ((s.slot i).state.accepting = true ∨ (s.slot i).state = .fenced))
    let place (i : SlotIndex) : Nat := (i.val + 31 - s.engine.pointer.val) % 32
    ((∀ i, ¬ eligible i) → exec .probeService s = .next { s with engine := { s.engine with
      requests := Vector.replicate 32 none } }) ∧
    (∀ i o, eligible i → s.request? i = some o → (∀ j, eligible j → place i ≤ place j) →
      let requests : Vector (Option ProbeOrigin) 32 := Vector.ofFn fun j =>
        if place j < place i then none else s.request? j
      exec .probeService s = .next
        ({ s with engine := { s.engine with requests := requests } }.launch i o))

/-- PROBE_RESULT (R155, R144, R198): the fields as they stand, each that may be absent with a presence byte of
its own (that the in-flight fields and those of the last probe have one each is log entry 16), and the fresh
flag cleared. -/
def Obligations.ProbeResultReadsAndClearsFresh : Prop :=
  ∀ (s : State) (seq : Byte), s.Holds 0x1B [] seq .own →
    let l := s.engine.last
    exec .probeResult s = .next
      ({ s with engine := { s.engine with last := { l with fresh := false } } }.answered 0x1B seq .own
        ((match s.engine.inFlight with
            | none => [0, 0, 0, 0, 0, 0, 0, 0, 0, 0, 0, 0, 0]
            | some p => [1] ++ ([1] ++ be8 p.addr) ++ ([1] ++ be32 p.tag.toNat)
                ++ ([1] ++ be8 p.origin.code) ++ ([1] ++ be16 (min 65535 (s.time.tick - p.launch).toNat)))
          ++ be8 ((List.finRange 32).filter fun i => (s.request? i).isSome).length
          ++ (match l.probe with
            | none => [0, 0, 0, 0, 0, 0, 0, 0, 0]
            | some p => ([1] ++ be8 p.addr) ++ ([1] ++ be32 p.tag.toNat) ++ ([1] ++ be8 p.origin.code))
          ++ be8 l.outcome.code
          ++ (match l.answer with
            | none => [0, 0, 0, 0, 0, 0, 0, 0]
            | some x => ([1] ++ be16 x.latency) ++ ([1] ++ be32 x.digest.toNat))
          ++ [if l.fresh = true then 1 else 0] ++ be16 s.engine.stale ++ be16 s.engine.seq.toNat))

/-! ### The configuration store, and the census query -/

/-- STORE and the end of its write (R208, R210, R211): refused with BUSY while a write is under way; else the
write buffer takes every stored item as it stands. The completion counts the write up to 63 and leaves the
image of the buffer, good exactly when the readback was equal, with outcome and STORE_BAD to match. With no
write under way the completion does not occur (log entry 2); what the image of a failed write holds is log
entry 10. -/
def Obligations.StoreAndItsCompletion : Prop :=
  ∀ (s : State) (seq : Byte) (how : Addressing),
    (s.Holds 0x1C [] seq how → s.store.writing ≠ none →
      exec .store s = .next (s.turnedAway 0x1C seq how 1)) ∧
    (s.Holds 0x1C [] seq how → s.store.writing = none →
      let items : StoredItems :=
        { profiles := s.mgmt.activeProfiles, policies := s.policy.active,
          slots := Vector.ofFn fun i => (s.slot i).config, divider := s.time.divider,
          windowLength := s.time.activeLength, postscale := s.time.postscale,
          markEnables := s.time.markEnables, quietPeriod := s.engine.quietPeriod,
          recoveryPeriod := s.engine.recoveryPeriod, marker := s.engine.marker,
          probeClass := s.engine.cls, claimTimeout := s.mgmt.claimTimeout,
          watchBase := s.mgmt.watchBase, groups := s.mgmt.groups }
      exec .store s = .next
        ({ s with store := { s.store with writing := some items } }.answered 0x1C seq how [])) ∧
    (s.store.writing = none → ∀ b, exec (.storeWriteComplete b) s = .next s) ∧
    (∀ items b, s.store.writing = some items → ∃ image,
      exec (.storeWriteComplete b) s = .next { s with
        store := { s.store with
          image := image
          writeCount := min 63 (s.store.writeCount + 1)
          writing := none
          outcome := if b = true then .good else .failed }
        mgmt := { s.mgmt with flags := { s.mgmt.flags with storeBad := !b } } } ∧
      image.items = items ∧ (b = false → image.good = false) ∧
      (b = true → items.inRange = true → image.good = true))

/-- CENSUS_QUERY (R172, R176): a monitor with END inactive takes no action; the end-of-chain monitor places a
CEN frame of its own figures, or of zeros and FFFFh when it is not WATCHING. -/
def Obligations.CensusQueryAtTheEndOfTheChain : Prop :=
  ∀ (s : State) (seq : Byte), s.mgmt.command = some ⟨[0x1D], seq, .all⟩ →
    s.mgmt.mode ≠ .starting →
    let done : State := { s with mgmt := { s.mgmt with command := none } }
    let placed (p : List Byte) : State := { s with mgmt := { s.mgmt with
      command := none
      replyQueue := s.mgmt.replyQueue ++ [mkFrame 7 0 0 0 p] } }
    (s.trunk.endStrap = false → exec .censusQuery s = .next done) ∧
    (s.trunk.endStrap = true → s.mgmt.replyQueue.length < 4 →
      (s.mgmt.mode = .watching → exec .censusQuery s = .next (placed
        (be16 (s.countState .vacant) ++ be16 (s.countState .parked)
          ++ be16 (s.countState .probation) ++ be16 (s.countState .live)
          ++ be16 (s.countState .suspect) ++ be16 (s.countState .draining)
          ++ be16 (s.countState .fenced) ++ be16 s.table.length ++ be16 s.oldestPendingAge
          ++ be16 s.minLive ++ be16 s.report.periodVerdicts ++ [1, 0, seq]))) ∧
      (s.mgmt.mode ≠ .watching → exec .censusQuery s = .next (placed
        (List.replicate 18 0 ++ [0xFF, 0xFF, 0, 0, 0, 1, seq]))))

/-! ### Invariants -/

/-- The capacities of 00_scope.md hold at reset, and so do the quiet of the tracking blocks outside WATCHING
and the agreement of table and slots. -/
def Obligations.InvariantsHoldAtReset : Prop :=
  State.reset.WithinCapacity ∧ State.reset.QuietOutsideWatching ∧ State.reset.TableConsistent

/-- No step leaves a queue, a buffer, a latency FIFO, a lost-tag list or the table above its capacity (R7, R35,
R60, R105, R162, R168, R184). -/
def Obligations.EveryStepKeepsTheCapacities : Prop :=
  ∀ s t : State, s.WithinCapacity → step s = .next t → t.WithinCapacity

/-- Outside WATCHING every step leaves the table empty, every slot VACANT or PARKED, the engine IDLE and its
request set empty (R35, R89, R204). -/
def Obligations.EveryStepKeepsTheQuietOutsideWatching : Prop :=
  ∀ s t : State, s.QuietOutsideWatching → step s = .next t → t.QuietOutsideWatching

/-- Every step keeps the pending table and the slot records in agreement (R35, R37, R66). -/
def Obligations.EveryStepKeepsTheTableConsistent : Prop :=
  ∀ s t : State, s.QuietOutsideWatching → s.TableConsistent → step s = .next t → t.TableConsistent
end

