-- ==== Sys2Proof/Laws/State.lean ====
section
/-! SUPPORT. What each basic update of the state reads back as: one lemma per field, so that no proof
unfolds a record update. -/

namespace Sys2Proof.Machine

/-! ### A slot record replaced or changed -/

theorem State.slot_setSlot (s : State) (i j : SlotIndex) (r : SlotRecord) :
    (s.setSlot i r).slot j = if i = j then r else s.slot j := by
  simp only [State.slot, State.setSlot, Fin.getElem_fin, Vector.getElem_set, Fin.ext_iff]

@[simp] theorem State.slot_setSlot_self (s : State) (i : SlotIndex) (r : SlotRecord) :
    (s.setSlot i r).slot i = r := by simp [State.slot_setSlot]

@[simp] theorem State.setSlot_trunk (s : State) (i : SlotIndex) (r : SlotRecord) :
    (s.setSlot i r).trunk = s.trunk := rfl
@[simp] theorem State.setSlot_time (s : State) (i : SlotIndex) (r : SlotRecord) :
    (s.setSlot i r).time = s.time := rfl
@[simp] theorem State.setSlot_table (s : State) (i : SlotIndex) (r : SlotRecord) :
    (s.setSlot i r).table = s.table := rfl
@[simp] theorem State.setSlot_policy (s : State) (i : SlotIndex) (r : SlotRecord) :
    (s.setSlot i r).policy = s.policy := rfl
@[simp] theorem State.setSlot_engine (s : State) (i : SlotIndex) (r : SlotRecord) :
    (s.setSlot i r).engine = s.engine := rfl
@[simp] theorem State.setSlot_report (s : State) (i : SlotIndex) (r : SlotRecord) :
    (s.setSlot i r).report = s.report := rfl
@[simp] theorem State.setSlot_mgmt (s : State) (i : SlotIndex) (r : SlotRecord) :
    (s.setSlot i r).mgmt = s.mgmt := rfl
@[simp] theorem State.setSlot_store (s : State) (i : SlotIndex) (r : SlotRecord) :
    (s.setSlot i r).store = s.store := rfl
@[simp] theorem State.setSlot_pending (s : State) (i : SlotIndex) (r : SlotRecord) :
    (s.setSlot i r).pending = s.pending := rfl

theorem State.slot_updSlot (s : State) (i j : SlotIndex) (f : SlotRecord → SlotRecord) :
    (s.updSlot i f).slot j = if i = j then f (s.slot i) else s.slot j :=
  s.slot_setSlot i j _

@[simp] theorem State.slot_updSlot_self (s : State) (i : SlotIndex) (f : SlotRecord → SlotRecord) :
    (s.updSlot i f).slot i = f (s.slot i) := s.slot_setSlot_self i _

@[simp] theorem State.updSlot_trunk (s : State) (i : SlotIndex) (f : SlotRecord → SlotRecord) :
    (s.updSlot i f).trunk = s.trunk := rfl
@[simp] theorem State.updSlot_time (s : State) (i : SlotIndex) (f : SlotRecord → SlotRecord) :
    (s.updSlot i f).time = s.time := rfl
@[simp] theorem State.updSlot_table (s : State) (i : SlotIndex) (f : SlotRecord → SlotRecord) :
    (s.updSlot i f).table = s.table := rfl
@[simp] theorem State.updSlot_policy (s : State) (i : SlotIndex) (f : SlotRecord → SlotRecord) :
    (s.updSlot i f).policy = s.policy := rfl
@[simp] theorem State.updSlot_engine (s : State) (i : SlotIndex) (f : SlotRecord → SlotRecord) :
    (s.updSlot i f).engine = s.engine := rfl
@[simp] theorem State.updSlot_report (s : State) (i : SlotIndex) (f : SlotRecord → SlotRecord) :
    (s.updSlot i f).report = s.report := rfl
@[simp] theorem State.updSlot_mgmt (s : State) (i : SlotIndex) (f : SlotRecord → SlotRecord) :
    (s.updSlot i f).mgmt = s.mgmt := rfl
@[simp] theorem State.updSlot_store (s : State) (i : SlotIndex) (f : SlotRecord → SlotRecord) :
    (s.updSlot i f).store = s.store := rfl
@[simp] theorem State.updSlot_pending (s : State) (i : SlotIndex) (f : SlotRecord → SlotRecord) :
    (s.updSlot i f).pending = s.pending := rfl

@[simp] theorem State.setSlot_setSlot (s : State) (i : SlotIndex) (a b : SlotRecord) :
    (s.setSlot i a).setSlot i b = s.setSlot i b := by
  simp [State.setSlot]

/-- Two changes of one slot record are one. -/
theorem State.updSlot_updSlot (s : State) (i : SlotIndex) (f g : SlotRecord → SlotRecord) :
    (s.updSlot i f).updSlot i g = s.updSlot i fun r => g (f r) := by
  unfold State.updSlot
  rw [State.slot_setSlot_self, State.setSlot_setSlot]

@[simp] theorem State.setSlot_slot_self (s : State) (i : SlotIndex) : s.setSlot i (s.slot i) = s := by
  simp [State.setSlot, State.slot]

@[simp] theorem State.slot_updAllSlots (s : State) (f : SlotRecord → SlotRecord) (i : SlotIndex) :
    (s.updAllSlots f).slot i = f (s.slot i) := by
  simp [State.slot, State.updAllSlots]

/-- The policy set a slot selects depends on its configuration and the policy tables alone. -/
theorem State.policySet_congr {s t : State} {i : SlotIndex}
    (hc : (t.slot i).config = (s.slot i).config) (hp : t.policy = s.policy) :
    t.policySet i = s.policySet i := by
  unfold State.policySet
  simp only [hc, hp]

/-! ### Flags -/

@[simp] theorem State.setFlags_trunk (s : State) (f : MonitorFlags → MonitorFlags) :
    (s.setFlags f).trunk = s.trunk := rfl
@[simp] theorem State.setFlags_time (s : State) (f : MonitorFlags → MonitorFlags) :
    (s.setFlags f).time = s.time := rfl
@[simp] theorem State.setFlags_table (s : State) (f : MonitorFlags → MonitorFlags) :
    (s.setFlags f).table = s.table := rfl
@[simp] theorem State.setFlags_slots (s : State) (f : MonitorFlags → MonitorFlags) :
    (s.setFlags f).slots = s.slots := rfl
@[simp] theorem State.setFlags_slot (s : State) (f : MonitorFlags → MonitorFlags) (i : SlotIndex) :
    (s.setFlags f).slot i = s.slot i := rfl
@[simp] theorem State.setFlags_policy (s : State) (f : MonitorFlags → MonitorFlags) :
    (s.setFlags f).policy = s.policy := rfl
@[simp] theorem State.setFlags_engine (s : State) (f : MonitorFlags → MonitorFlags) :
    (s.setFlags f).engine = s.engine := rfl
@[simp] theorem State.setFlags_report (s : State) (f : MonitorFlags → MonitorFlags) :
    (s.setFlags f).report = s.report := rfl
@[simp] theorem State.setFlags_store (s : State) (f : MonitorFlags → MonitorFlags) :
    (s.setFlags f).store = s.store := rfl
@[simp] theorem State.setFlags_pending (s : State) (f : MonitorFlags → MonitorFlags) :
    (s.setFlags f).pending = s.pending := rfl
@[simp] theorem State.setFlags_mgmt (s : State) (f : MonitorFlags → MonitorFlags) :
    (s.setFlags f).mgmt = { s.mgmt with flags := f s.mgmt.flags } := rfl

/-! ### A queued alert (R162, R163) -/

theorem State.queueAlert_room (s : State) (r : AlertRecord)
    (h : s.report.outbox.length < Config.outboxCapacity) :
    s.queueAlert r =
      { s with report := { s.report with outbox := s.report.outbox ++ [⟨r, s.mgmt.chain⟩] } } :=
  if_pos h

theorem State.queueAlert_full (s : State) (r : AlertRecord)
    (h : ¬ s.report.outbox.length < Config.outboxCapacity) :
    s.queueAlert r =
      { s with
        report := { s.report with lostCount := satAdd Config.max16 s.report.lostCount 1 }
        mgmt := { s.mgmt with flags := { s.mgmt.flags with outboxLost := true } } } :=
  if_neg h

@[simp] theorem State.queueAlert_trunk (s : State) (r : AlertRecord) :
    (s.queueAlert r).trunk = s.trunk := by unfold State.queueAlert; split <;> rfl
@[simp] theorem State.queueAlert_time (s : State) (r : AlertRecord) :
    (s.queueAlert r).time = s.time := by unfold State.queueAlert; split <;> rfl
@[simp] theorem State.queueAlert_table (s : State) (r : AlertRecord) :
    (s.queueAlert r).table = s.table := by unfold State.queueAlert; split <;> rfl
@[simp] theorem State.queueAlert_slots (s : State) (r : AlertRecord) :
    (s.queueAlert r).slots = s.slots := by unfold State.queueAlert; split <;> rfl
@[simp] theorem State.queueAlert_slot (s : State) (r : AlertRecord) (i : SlotIndex) :
    (s.queueAlert r).slot i = s.slot i := by unfold State.queueAlert; split <;> rfl
@[simp] theorem State.queueAlert_policy (s : State) (r : AlertRecord) :
    (s.queueAlert r).policy = s.policy := by unfold State.queueAlert; split <;> rfl
@[simp] theorem State.queueAlert_engine (s : State) (r : AlertRecord) :
    (s.queueAlert r).engine = s.engine := by unfold State.queueAlert; split <;> rfl
@[simp] theorem State.queueAlert_store (s : State) (r : AlertRecord) :
    (s.queueAlert r).store = s.store := by unfold State.queueAlert; split <;> rfl
@[simp] theorem State.queueAlert_pending (s : State) (r : AlertRecord) :
    (s.queueAlert r).pending = s.pending := by unfold State.queueAlert; split <;> rfl

/-- The management unit after an alert: nothing but OUTBOX_LOST can change. -/
theorem State.queueAlert_mgmt (s : State) (r : AlertRecord) :
    (s.queueAlert r).mgmt = { s.mgmt with flags := (s.queueAlert r).mgmt.flags } := by
  unfold State.queueAlert; split <;> rfl

@[simp] theorem State.queueAlert_mode (s : State) (r : AlertRecord) :
    (s.queueAlert r).mode = s.mode := by unfold State.queueAlert; split <;> rfl
@[simp] theorem State.queueAlert_mgmt_mode (s : State) (r : AlertRecord) :
    (s.queueAlert r).mgmt.mode = s.mgmt.mode := by unfold State.queueAlert; split <;> rfl
@[simp] theorem State.queueAlert_chain (s : State) (r : AlertRecord) :
    (s.queueAlert r).mgmt.chain = s.mgmt.chain := by unfold State.queueAlert; split <;> rfl
@[simp] theorem State.queueAlert_replyQueue (s : State) (r : AlertRecord) :
    (s.queueAlert r).mgmt.replyQueue = s.mgmt.replyQueue := by unfold State.queueAlert; split <;> rfl
@[simp] theorem State.queueAlert_groups (s : State) (r : AlertRecord) :
    (s.queueAlert r).mgmt.groups = s.mgmt.groups := by unfold State.queueAlert; split <;> rfl
@[simp] theorem State.queueAlert_watchBase (s : State) (r : AlertRecord) :
    (s.queueAlert r).mgmt.watchBase = s.mgmt.watchBase := by unfold State.queueAlert; split <;> rfl
@[simp] theorem State.queueAlert_command (s : State) (r : AlertRecord) :
    (s.queueAlert r).mgmt.command = s.mgmt.command := by unfold State.queueAlert; split <;> rfl
@[simp] theorem State.queueAlert_activeProfiles (s : State) (r : AlertRecord) :
    (s.queueAlert r).mgmt.activeProfiles = s.mgmt.activeProfiles := by
  unfold State.queueAlert; split <;> rfl
@[simp] theorem State.queueAlert_stagedProfiles (s : State) (r : AlertRecord) :
    (s.queueAlert r).mgmt.stagedProfiles = s.mgmt.stagedProfiles := by
  unfold State.queueAlert; split <;> rfl
@[simp] theorem State.queueAlert_snapshot (s : State) (r : AlertRecord) :
    (s.queueAlert r).mgmt.snapshot = s.mgmt.snapshot := by unfold State.queueAlert; split <;> rfl
@[simp] theorem State.queueAlert_claimTimeout (s : State) (r : AlertRecord) :
    (s.queueAlert r).mgmt.claimTimeout = s.mgmt.claimTimeout := by
  unfold State.queueAlert; split <;> rfl
@[simp] theorem State.queueAlert_claimTimer (s : State) (r : AlertRecord) :
    (s.queueAlert r).mgmt.claimTimer = s.mgmt.claimTimer := by
  unfold State.queueAlert; split <;> rfl
@[simp] theorem State.queueAlert_startCause (s : State) (r : AlertRecord) :
    (s.queueAlert r).mgmt.startCause = s.mgmt.startCause := by
  unfold State.queueAlert; split <;> rfl
@[simp] theorem State.queueAlert_resetHeld (s : State) (r : AlertRecord) :
    (s.queueAlert r).mgmt.resetHeld = s.mgmt.resetHeld := by
  unfold State.queueAlert; split <;> rfl
@[simp] theorem State.queueAlert_linkUpErr (s : State) (r : AlertRecord) :
    (s.queueAlert r).mgmt.flags.linkUpErr = s.mgmt.flags.linkUpErr := by
  unfold State.queueAlert; split <;> rfl
@[simp] theorem State.queueAlert_linkDownErr (s : State) (r : AlertRecord) :
    (s.queueAlert r).mgmt.flags.linkDownErr = s.mgmt.flags.linkDownErr := by
  unfold State.queueAlert; split <;> rfl
@[simp] theorem State.queueAlert_cmdDropped (s : State) (r : AlertRecord) :
    (s.queueAlert r).mgmt.flags.cmdDropped = s.mgmt.flags.cmdDropped := by
  unfold State.queueAlert; split <;> rfl
@[simp] theorem State.queueAlert_tableFull (s : State) (r : AlertRecord) :
    (s.queueAlert r).mgmt.flags.tableFull = s.mgmt.flags.tableFull := by
  unfold State.queueAlert; split <;> rfl
@[simp] theorem State.queueAlert_storeBad (s : State) (r : AlertRecord) :
    (s.queueAlert r).mgmt.flags.storeBad = s.mgmt.flags.storeBad := by
  unfold State.queueAlert; split <;> rfl
@[simp] theorem State.queueAlert_periodVerdicts (s : State) (r : AlertRecord) :
    (s.queueAlert r).report.periodVerdicts = s.report.periodVerdicts := by
  unfold State.queueAlert; split <;> rfl
@[simp] theorem State.queueAlert_bounceQueue (s : State) (r : AlertRecord) :
    (s.queueAlert r).report.bounceQueue = s.report.bounceQueue := by
  unfold State.queueAlert; split <;> rfl

/-- An alert and a slot record's update commute. -/
theorem State.queueAlert_setSlot (s : State) (i : SlotIndex) (x : SlotRecord) (r : AlertRecord) :
    (s.setSlot i x).queueAlert r = (s.queueAlert r).setSlot i x := by
  unfold State.queueAlert
  by_cases h : s.report.outbox.length < Config.outboxCapacity
  · rw [if_pos h, if_pos (by exact h)]; rfl
  · rw [if_neg h, if_neg (by exact h)]; rfl

/-- An alert and a change of a slot record commute. -/
theorem State.queueAlert_updSlot (s : State) (i : SlotIndex) (f : SlotRecord → SlotRecord)
    (r : AlertRecord) : (s.updSlot i f).queueAlert r = (s.queueAlert r).updSlot i f := by
  unfold State.updSlot
  rw [State.queueAlert_setSlot, State.queueAlert_slot]

/-- The report unit after an alert: nothing but the outbox and the lost count can change. -/
theorem State.queueAlert_report (s : State) (r : AlertRecord) :
    (s.queueAlert r).report = { s.report with
      outbox := (s.queueAlert r).report.outbox, lostCount := (s.queueAlert r).report.lostCount } := by
  unfold State.queueAlert; split <;> rfl

/-- An alert never takes the outbox past its capacity. -/
theorem State.queueAlert_outbox_le (s : State) (r : AlertRecord)
    (h : s.report.outbox.length ≤ Config.outboxCapacity) :
    (s.queueAlert r).report.outbox.length ≤ Config.outboxCapacity := by
  unfold State.queueAlert
  split
  · simp only [List.length_append, List.length_cons, List.length_nil]; omega
  · exact h

/-! ### The claim timer (R203) -/

@[simp] theorem State.setClaimTimer_trunk (s : State) (t : Option ClaimTimer) :
    (s.setClaimTimer t).trunk = s.trunk := rfl
@[simp] theorem State.setClaimTimer_time (s : State) (t : Option ClaimTimer) :
    (s.setClaimTimer t).time = s.time := rfl
@[simp] theorem State.setClaimTimer_table (s : State) (t : Option ClaimTimer) :
    (s.setClaimTimer t).table = s.table := rfl
@[simp] theorem State.setClaimTimer_slots (s : State) (t : Option ClaimTimer) :
    (s.setClaimTimer t).slots = s.slots := rfl
@[simp] theorem State.setClaimTimer_policy (s : State) (t : Option ClaimTimer) :
    (s.setClaimTimer t).policy = s.policy := rfl
@[simp] theorem State.setClaimTimer_engine (s : State) (t : Option ClaimTimer) :
    (s.setClaimTimer t).engine = s.engine := rfl
@[simp] theorem State.setClaimTimer_report (s : State) (t : Option ClaimTimer) :
    (s.setClaimTimer t).report = s.report := rfl
@[simp] theorem State.setClaimTimer_mgmt (s : State) (t : Option ClaimTimer) :
    (s.setClaimTimer t).mgmt = { s.mgmt with claimTimer := t } := rfl
@[simp] theorem State.setClaimTimer_store (s : State) (t : Option ClaimTimer) :
    (s.setClaimTimer t).store = s.store := rfl
@[simp] theorem State.setClaimTimer_pending (s : State) (t : Option ClaimTimer) :
    (s.setClaimTimer t).pending = s.pending := rfl
@[simp] theorem State.setClaimTimer_slot (s : State) (t : Option ClaimTimer) (i : SlotIndex) :
    (s.setClaimTimer t).slot i = s.slot i := rfl

/-! ### Reference clock periods counted by the claim timer (R203) -/

@[simp] theorem State.countClaim_trunk (s : State) (n : Nat) :
    (s.countClaim n).trunk = s.trunk := by
  unfold State.countClaim; split <;> rfl
@[simp] theorem State.countClaim_time (s : State) (n : Nat) :
    (s.countClaim n).time = s.time := by
  unfold State.countClaim; split <;> rfl
@[simp] theorem State.countClaim_table (s : State) (n : Nat) :
    (s.countClaim n).table = s.table := by
  unfold State.countClaim; split <;> rfl
@[simp] theorem State.countClaim_slots (s : State) (n : Nat) :
    (s.countClaim n).slots = s.slots := by
  unfold State.countClaim; split <;> rfl
@[simp] theorem State.countClaim_policy (s : State) (n : Nat) :
    (s.countClaim n).policy = s.policy := by
  unfold State.countClaim; split <;> rfl
@[simp] theorem State.countClaim_engine (s : State) (n : Nat) :
    (s.countClaim n).engine = s.engine := by
  unfold State.countClaim; split <;> rfl
@[simp] theorem State.countClaim_report (s : State) (n : Nat) :
    (s.countClaim n).report = s.report := by
  unfold State.countClaim; split <;> rfl
@[simp] theorem State.countClaim_store (s : State) (n : Nat) :
    (s.countClaim n).store = s.store := by
  unfold State.countClaim; split <;> rfl
@[simp] theorem State.countClaim_pending (s : State) (n : Nat) :
    (s.countClaim n).pending = s.pending := by
  unfold State.countClaim; split <;> rfl
@[simp] theorem State.countClaim_slot (s : State) (n : Nat) (i : SlotIndex) :
    (s.countClaim n).slot i = s.slot i := by
  unfold State.countClaim; split <;> rfl

theorem State.countClaim_mgmt (s : State) (n : Nat) :
    (s.countClaim n).mgmt = { s.mgmt with
      claimTimer := if s.mgmt.mode = .unclaimed then s.mgmt.claimTimer.map fun c => c.count n
        else s.mgmt.claimTimer } := by
  unfold State.countClaim State.mode
  split <;> rfl

/-! ### A sample of MARK (R29) -/

@[simp] theorem State.sampleMark_trunk (s : State) (b : Bool) :
    (s.sampleMark b).trunk = s.trunk := rfl
@[simp] theorem State.sampleMark_time (s : State) (b : Bool) :
    (s.sampleMark b).time = { s.time with markSample := b } := rfl
@[simp] theorem State.sampleMark_table (s : State) (b : Bool) :
    (s.sampleMark b).table = s.table := rfl
@[simp] theorem State.sampleMark_slots (s : State) (b : Bool) :
    (s.sampleMark b).slots = s.slots := rfl
@[simp] theorem State.sampleMark_policy (s : State) (b : Bool) :
    (s.sampleMark b).policy = s.policy := rfl
@[simp] theorem State.sampleMark_engine (s : State) (b : Bool) :
    (s.sampleMark b).engine = s.engine := rfl
@[simp] theorem State.sampleMark_report (s : State) (b : Bool) :
    (s.sampleMark b).report = s.report := rfl
@[simp] theorem State.sampleMark_mgmt (s : State) (b : Bool) :
    (s.sampleMark b).mgmt = s.mgmt := rfl
@[simp] theorem State.sampleMark_store (s : State) (b : Bool) :
    (s.sampleMark b).store = s.store := rfl
@[simp] theorem State.sampleMark_pending (s : State) (b : Bool) :
    (s.sampleMark b).pending = s.pending := rfl
@[simp] theorem State.sampleMark_slot (s : State) (b : Bool) (i : SlotIndex) :
    (s.sampleMark b).slot i = s.slot i := rfl

/-! ### The end of a frame to be discarded (R6) -/

@[simp] theorem State.endDiscard_time (s : State) (p : Port) :
    (s.endDiscard p).time = s.time := by cases p <;> rfl
@[simp] theorem State.endDiscard_table (s : State) (p : Port) :
    (s.endDiscard p).table = s.table := by cases p <;> rfl
@[simp] theorem State.endDiscard_slots (s : State) (p : Port) :
    (s.endDiscard p).slots = s.slots := by cases p <;> rfl
@[simp] theorem State.endDiscard_policy (s : State) (p : Port) :
    (s.endDiscard p).policy = s.policy := by cases p <;> rfl
@[simp] theorem State.endDiscard_engine (s : State) (p : Port) :
    (s.endDiscard p).engine = s.engine := by cases p <;> rfl
@[simp] theorem State.endDiscard_report (s : State) (p : Port) :
    (s.endDiscard p).report = s.report := by cases p <;> rfl
@[simp] theorem State.endDiscard_mgmt (s : State) (p : Port) :
    (s.endDiscard p).mgmt = s.mgmt := by cases p <;> rfl
@[simp] theorem State.endDiscard_store (s : State) (p : Port) :
    (s.endDiscard p).store = s.store := by cases p <;> rfl
@[simp] theorem State.endDiscard_pending (s : State) (p : Port) :
    (s.endDiscard p).pending = s.pending := by cases p <;> rfl
@[simp] theorem State.endDiscard_slot (s : State) (p : Port) (i : SlotIndex) :
    (s.endDiscard p).slot i = s.slot i := by cases p <;> rfl

theorem State.endDiscard_trunk (s : State) (p : Port) :
    (s.endDiscard p).trunk = { s.trunk with
      upDiscard := s.trunk.upDiscard && decide (p ≠ .up)
      downDiscard := s.trunk.downDiscard && decide (p ≠ .down) } := by
  cases p <;> simp [State.endDiscard]

/-! ### The request set -/

theorem State.request?_setRequest (s : State) (i j : SlotIndex) (o : Option ProbeOrigin) :
    (s.setRequest i o).request? j = if i = j then o else s.request? j := by
  simp only [State.request?, State.setRequest, Fin.getElem_fin, Vector.getElem_set, Fin.ext_iff]

@[simp] theorem State.setRequest_slot (s : State) (i j : SlotIndex) (o : Option ProbeOrigin) :
    (s.setRequest i o).slot j = s.slot j := rfl
@[simp] theorem State.setRequest_table (s : State) (i : SlotIndex) (o : Option ProbeOrigin) :
    (s.setRequest i o).table = s.table := rfl
@[simp] theorem State.setRequest_mgmt (s : State) (i : SlotIndex) (o : Option ProbeOrigin) :
    (s.setRequest i o).mgmt = s.mgmt := rfl

@[simp] theorem State.setRequest_trunk (s : State) (i : SlotIndex) (o : Option ProbeOrigin) :
    (s.setRequest i o).trunk = s.trunk := rfl
@[simp] theorem State.setRequest_time (s : State) (i : SlotIndex) (o : Option ProbeOrigin) :
    (s.setRequest i o).time = s.time := rfl
@[simp] theorem State.setRequest_slots (s : State) (i : SlotIndex) (o : Option ProbeOrigin) :
    (s.setRequest i o).slots = s.slots := rfl
@[simp] theorem State.setRequest_policy (s : State) (i : SlotIndex) (o : Option ProbeOrigin) :
    (s.setRequest i o).policy = s.policy := rfl
@[simp] theorem State.setRequest_report (s : State) (i : SlotIndex) (o : Option ProbeOrigin) :
    (s.setRequest i o).report = s.report := rfl
@[simp] theorem State.setRequest_store (s : State) (i : SlotIndex) (o : Option ProbeOrigin) :
    (s.setRequest i o).store = s.store := rfl
@[simp] theorem State.setRequest_pending (s : State) (i : SlotIndex) (o : Option ProbeOrigin) :
    (s.setRequest i o).pending = s.pending := rfl
@[simp] theorem State.setRequest_engine (s : State) (i : SlotIndex) (o : Option ProbeOrigin) :
    (s.setRequest i o).engine = { s.engine with requests := s.engine.requests.set i o } := rfl

/-! ### The pending table -/

@[simp] theorem State.updEntry_slot (s : State) (k : EntryKey) (f : Entry → Entry) (i : SlotIndex) :
    (s.updEntry k f).slot i = s.slot i := rfl
@[simp] theorem State.updEntry_length (s : State) (k : EntryKey) (f : Entry → Entry) :
    (s.updEntry k f).table.length = s.table.length := by simp [State.updEntry]
@[simp] theorem State.addEntry_table (s : State) (e : Entry) :
    (s.addEntry e).table = s.table ++ [e] := rfl

end Sys2Proof.Machine
end

