-- ==== Sys2Proof/Laws/SlotWork.lean ====
section
/-! SUPPORT. What work on slot records, entries and alerts can touch, said once: every operation of
chapters 3 to 6 that a verdict, a removal or a fence is made of relates its states by `SlotWork`; the
window close, which also writes the probe request set, by `CloseWork`. -/

namespace Sys2Proof.Machine

/-- From `s` to `t` only slot records (not their configuration), entries, alerts, the census verdict
counts and the sticky flags changed; no entry joined the table. -/
structure SlotWork (s t : State) : Prop where
  trunk : t.trunk = s.trunk
  time : t.time = s.time
  policy : t.policy = s.policy
  engine : t.engine = s.engine
  store : t.store = s.store
  pending : t.pending = s.pending
  mgmt : t.mgmt = { s.mgmt with flags := t.mgmt.flags }
  bounce : t.report.bounceQueue = s.report.bounceQueue
  outbox : s.report.outbox.length ≤ Config.outboxCapacity →
    t.report.outbox.length ≤ Config.outboxCapacity
  table : t.table.length ≤ s.table.length
  config : ∀ i, (t.slot i).config = (s.slot i).config

/-- As `SlotWork`, with the probe request set free to change too. -/
structure CloseWork (s t : State) : Prop where
  trunk : t.trunk = s.trunk
  time : t.time = s.time
  policy : t.policy = s.policy
  engine : t.engine = { s.engine with requests := t.engine.requests }
  store : t.store = s.store
  pending : t.pending = s.pending
  mgmt : t.mgmt = { s.mgmt with flags := t.mgmt.flags }
  bounce : t.report.bounceQueue = s.report.bounceQueue
  outbox : s.report.outbox.length ≤ Config.outboxCapacity →
    t.report.outbox.length ≤ Config.outboxCapacity
  table : t.table.length ≤ s.table.length
  config : ∀ i, (t.slot i).config = (s.slot i).config

namespace SlotWork

theorem refl (s : State) : SlotWork s s :=
  ⟨rfl, rfl, rfl, rfl, rfl, rfl, rfl, rfl, id, Nat.le_refl _, fun _ => rfl⟩

theorem trans {s t u : State} (a : SlotWork s t) (b : SlotWork t u) : SlotWork s u where
  trunk := b.trunk.trans a.trunk
  time := b.time.trans a.time
  policy := b.policy.trans a.policy
  engine := b.engine.trans a.engine
  store := b.store.trans a.store
  pending := b.pending.trans a.pending
  mgmt := by rw [b.mgmt, a.mgmt]
  bounce := b.bounce.trans a.bounce
  outbox h := b.outbox (a.outbox h)
  table := Nat.le_trans b.table a.table
  config i := (b.config i).trans (a.config i)

theorem toClose {s t : State} (a : SlotWork s t) : CloseWork s t where
  trunk := a.trunk
  time := a.time
  policy := a.policy
  engine := by rw [a.engine]
  store := a.store
  pending := a.pending
  mgmt := a.mgmt
  bounce := a.bounce
  outbox := a.outbox
  table := a.table
  config := a.config

/-- A left fold of slot work over a list is slot work. -/
theorem foldl {α : Type} (f : State → α → State) (h : ∀ s a, SlotWork s (f s a)) (l : List α)
    (s : State) : SlotWork s (l.foldl f s) := by
  induction l generalizing s with
  | nil => exact refl s
  | cons a l ih => exact (h s a).trans (ih _)

/-! ### Slots and alerts -/

theorem queueAlert (s : State) (r : AlertRecord) : SlotWork s (s.queueAlert r) where
  trunk := s.queueAlert_trunk r
  time := s.queueAlert_time r
  policy := s.queueAlert_policy r
  engine := s.queueAlert_engine r
  store := s.queueAlert_store r
  pending := s.queueAlert_pending r
  mgmt := s.queueAlert_mgmt r
  bounce := s.queueAlert_bounceQueue r
  outbox := s.queueAlert_outbox_le r
  table := by simp
  config i := by simp

theorem setSlot (s : State) (i : SlotIndex) (r : SlotRecord) (h : r.config = (s.slot i).config) :
    SlotWork s (s.setSlot i r) where
  trunk := rfl
  time := rfl
  policy := rfl
  engine := rfl
  store := rfl
  pending := rfl
  mgmt := rfl
  bounce := rfl
  outbox := id
  table := Nat.le_refl _
  config j := by
    rw [State.slot_setSlot]
    by_cases e : i = j
    · subst e; simp [h]
    · simp [e]

theorem updSlot (s : State) (i : SlotIndex) (f : SlotRecord → SlotRecord)
    (h : ∀ r, (f r).config = r.config) : SlotWork s (s.updSlot i f) := setSlot s i _ (h _)

theorem credit (s : State) (i : SlotIndex) (c : CounterName) : SlotWork s (s.credit i c) :=
  updSlot s i _ fun _ => rfl

theorem changeState (s : State) (i : SlotIndex) (n : SlotState) (c : SlotCause) :
    SlotWork s (s.changeState i n c) := by
  refine SlotWork.trans ?_ (queueAlert _ _)
  exact updSlot s i _ fun _ => rfl

theorem enterProbation (s : State) (i : SlotIndex) (c : SlotCause) :
    SlotWork s (s.enterProbation i c) := by
  refine SlotWork.trans ?_ (queueAlert _ _)
  exact updSlot s i _ fun _ => rfl

theorem enterParked (s : State) (i : SlotIndex) (c : SlotCause) :
    SlotWork s (s.enterParked i c) := by
  refine SlotWork.trans ?_ (queueAlert _ _)
  exact updSlot s i _ fun _ => rfl

theorem settleDrain (s : State) (i : SlotIndex) : SlotWork s (s.settleDrain i) := by
  unfold State.settleDrain
  split
  · exact enterParked s i .drained
  · exact refl s

/-! ### Entries -/

/-- A table rewritten without growing. -/
theorem setTable (s : State) (l : List Entry) (h : l.length ≤ s.table.length) :
    SlotWork s { s with table := l } :=
  ⟨rfl, rfl, rfl, rfl, rfl, rfl, rfl, rfl, id, h, fun _ => rfl⟩

theorem updEntry (s : State) (k : EntryKey) (f : Entry → Entry) : SlotWork s (s.updEntry k f) :=
  setTable s _ (by simp)

theorem removeEntry (s : State) (e : Entry) : SlotWork s (s.removeEntry e) :=
  ((setTable s _ (List.length_filter_le _ _)).trans
    (updSlot _ e.slot _ fun r => by unfold SlotRecord.dropEntry; split <;> rfl)).trans
    (settleDrain _ _)

theorem releasePartner (s : State) (e : Entry) : SlotWork s (s.releasePartner e) := by
  unfold State.releasePartner
  split
  · exact refl s
  · split
    · exact refl s
    · split
      · exact removeEntry s _
      · exact updEntry s _ _

theorem orphanEntry (s : State) (e : Entry) : SlotWork s (s.orphanEntry e) :=
  (releasePartner s e).trans (removeEntry _ e)

theorem orphanSlot (s : State) (i : SlotIndex) : SlotWork s (s.orphanSlot i) :=
  foldl _ orphanEntry _ s

/-! ### Fences and verdicts -/

theorem enterFenced (s : State) (i : SlotIndex) : SlotWork s (s.enterFenced i) := by
  unfold State.enterFenced
  refine SlotWork.trans ?_ (queueAlert _ _)
  have a := ((updSlot s i (fun r => { r with fencePending := false, state := .fenced })
    fun _ => rfl).trans (orphanSlot _ i)).trans
    (updSlot _ i (fun r => { r with sinceProbe := 0 }) fun _ => rfl)
  split
  · exact a
  · exact a.trans (queueAlert _ _)

theorem gateEffect (s : State) (i : SlotIndex) : SlotWork s (s.gateEffect i) := by
  unfold State.gateEffect
  split
  · split
    · exact enterFenced s i
    · exact updSlot s i _ fun _ => rfl
  · exact refl s

theorem setManual (s : State) (i : SlotIndex) : SlotWork s (s.setManual i) := by
  refine SlotWork.trans ?_ (gateEffect _ i)
  exact updSlot s i _ fun _ => rfl

theorem setVerdict (s : State) (i : SlotIndex) : SlotWork s (s.setVerdict i) := by
  refine SlotWork.trans ?_ (gateEffect _ i)
  exact updSlot s i _ fun _ => rfl

theorem submitVerdict (s : State) (i : SlotIndex) (k : VerdictKind) (p : Policy) (st : SlotState)
    (n : Nat) (q : Option Nat) (t : Option Tag) : SlotWork s (s.submitVerdict i k p st n q t) := by
  unfold State.submitVerdict
  dsimp only
  split
  · refine SlotWork.trans ?_ (queueAlert _ _)
    exact setSlot s i _ rfl
  · exact setSlot s i _ rfl

theorem applyVerdict (s : State) (i : SlotIndex) (a : VerdictAction) :
    SlotWork s (s.applyVerdict i a) := by
  unfold State.applyVerdict
  split
  · exact refl s
  · refine SlotWork.trans ?_ (changeState _ i _ _)
    exact updSlot s i _ fun _ => rfl
  · exact setVerdict s i

theorem countVerdict (s : State) : SlotWork s s.countVerdict :=
  ⟨rfl, rfl, rfl, rfl, rfl, rfl, rfl, rfl, id, Nat.le_refl _, fun _ => rfl⟩

theorem raiseVerdict (s : State) (i : SlotIndex) (k : VerdictKind) (n : Nat) (q : Option Nat)
    (t : Option Tag) : SlotWork s (s.raiseVerdict i k n q t) := by
  unfold State.raiseVerdict
  dsimp only
  split
  · exact refl s
  · refine SlotWork.trans ?_ (applyVerdict _ i _)
    refine SlotWork.trans ?_ (submitVerdict _ i k _ _ _ q t)
    refine SlotWork.trans ?_ (countVerdict _)
    exact updSlot s i _ fun _ => rfl

theorem probeOutcome (s : State) (p : InFlight) (o : ProbeOutcome) :
    SlotWork s (s.probeOutcome p o) := by
  unfold State.probeOutcome
  split
  · split
    · exact updSlot s _ _ fun _ => rfl
    · exact refl s
  · exact raiseVerdict ..
  · exact raiseVerdict ..
  · exact refl s
  · exact refl s

/-! ### Answers and expiry -/

theorem loseEntry (s : State) (e : Entry) : SlotWork s (s.loseEntry e) := by
  refine SlotWork.trans ?_ (removeEntry _ e)
  refine SlotWork.trans ?_ (releasePartner _ e)
  refine SlotWork.trans (credit s e.slot .losts) ?_
  exact updSlot _ e.slot _ fun _ => rfl

theorem expireTwin (s : State) (e : Entry) : SlotWork s (s.expireTwin e) := by
  unfold State.expireTwin
  dsimp only
  split
  · exact removeEntry s e
  · exact (((removeEntry s e).trans (updEntry _ _ _)).trans (credit _ _ _)).trans
      (raiseVerdict _ _ _ _ _ _)

theorem pushSample_config (r : SlotRecord) (x : Sample) : (r.pushSample x).config = r.config := by
  unfold SlotRecord.pushSample; split <;> rfl

theorem sampleLatency_config (r : SlotRecord) (x : Sample) :
    (r.sampleLatency x).config = r.config := by
  unfold SlotRecord.sampleLatency
  split
  · exact pushSample_config _ x
  · rfl

theorem countCompletion (s : State) (e : Entry) : SlotWork s (s.countCompletion e) := by
  unfold State.countCompletion
  dsimp only
  refine SlotWork.trans ?_ (updSlot _ _ _ fun r => sampleLatency_config r _)
  split
  · exact (credit s _ _).trans (credit _ _ _)
  · exact credit s _ _

theorem holdEntry (s : State) (e : Entry) (d : Digest) : SlotWork s (s.holdEntry e d) :=
  updEntry s _ _

theorem removePair (s : State) (a b : Entry) (first : Bool) : SlotWork s (s.removePair a b first) := by
  unfold State.removePair
  split
  · exact (removeEntry s a).trans (removeEntry _ b)
  · exact (removeEntry s b).trans (removeEntry _ a)

theorem raiseDivergences (s : State) (a b : Entry) (first : Bool) :
    SlotWork s (s.raiseDivergences a b first) := by
  unfold State.raiseDivergences State.raiseDiverge
  split
  · exact (raiseVerdict ..).trans (raiseVerdict ..)
  · exact (raiseVerdict ..).trans (raiseVerdict ..)

theorem compareTwins (s : State) (a b : Entry) (d : Digest) (x y : Bool) :
    SlotWork s (s.compareTwins a b d x y) := by
  unfold State.compareTwins
  dsimp only
  split
  · exact removePair s a b x
  · exact (((removePair s a b x).trans (credit _ _ _)).trans (credit _ _ _)).trans
      (raiseDivergences _ _ _ _)

theorem disposeAnswered (s : State) (e : Entry) (d : Digest) (x y : Bool) :
    SlotWork s (s.disposeAnswered e d x y) := by
  unfold State.disposeAnswered
  split
  · exact removeEntry s e
  · split
    · exact removeEntry s e
    · split
      · exact compareTwins ..
      · exact holdEntry s e d

/-! ### Commands on slots -/

theorem claimSlot (s : State) (i : SlotIndex) : SlotWork s (s.claimSlot i) := by
  unfold State.claimSlot
  split
  · exact enterProbation s i .claim
  · exact refl s

theorem releaseSlot (s : State) (i : SlotIndex) : SlotWork s (s.releaseSlot i) := by
  unfold State.releaseSlot
  split
  · refine SlotWork.trans ?_ (queueAlert _ _)
    exact updSlot s i _ fun _ => rfl
  · exact refl s

theorem resetAlert (b s : State) (i : SlotIndex) : SlotWork s (b.resetAlert s i) := by
  unfold State.resetAlert
  split
  · exact refl s
  · exact queueAlert s _

end SlotWork

namespace CloseWork

theorem refl (s : State) : CloseWork s s := (SlotWork.refl s).toClose

theorem trans {s t u : State} (a : CloseWork s t) (b : CloseWork t u) : CloseWork s u where
  trunk := b.trunk.trans a.trunk
  time := b.time.trans a.time
  policy := b.policy.trans a.policy
  engine := by rw [b.engine, a.engine]
  store := b.store.trans a.store
  pending := b.pending.trans a.pending
  mgmt := by rw [b.mgmt, a.mgmt]
  bounce := b.bounce.trans a.bounce
  outbox h := b.outbox (a.outbox h)
  table := Nat.le_trans b.table a.table
  config i := (b.config i).trans (a.config i)

/-- The mode survives. -/
theorem mode {s t : State} (a : CloseWork s t) : t.mode = s.mode := by
  unfold State.mode; rw [a.mgmt]

/-- A left fold of close work over a list is close work. -/
theorem foldl {α : Type} (f : State → α → State) (h : ∀ s a, CloseWork s (f s a)) (l : List α)
    (s : State) : CloseWork s (l.foldl f s) := by
  induction l generalizing s with
  | nil => exact refl s
  | cons a l ih => exact (h s a).trans (ih _)

theorem raiseFound (s : State) (i : SlotIndex) (k : VerdictKind) (n : Option Nat) :
    SlotWork s (s.raiseFound i k n) := by
  unfold State.raiseFound
  split
  · exact SlotWork.refl s
  · exact SlotWork.raiseVerdict ..

theorem raiseStall (s : State) (i : SlotIndex) (n : Option (Nat × Tag)) :
    SlotWork s (s.raiseStall i n) := by
  unfold State.raiseStall
  split
  · exact SlotWork.refl s
  · exact SlotWork.raiseVerdict ..

theorem windowVerdicts (s : State) (i : SlotIndex) (start : Tick) :
    SlotWork s (s.windowVerdicts i start) :=
  (((raiseStall s i _).trans (raiseFound _ i _ _)).trans (raiseFound _ i _ _)).trans
    (raiseFound _ i _ _)

theorem closeStep1 (s : State) (i : SlotIndex) (start : Tick) : SlotWork s (s.closeStep1 i start) := by
  unfold State.closeStep1
  dsimp only
  refine SlotWork.trans ?_ (SlotWork.updSlot _ i _ fun _ => rfl)
  split
  · exact windowVerdicts s i start
  · exact SlotWork.refl s

theorem closeStep3 (s : State) (i : SlotIndex) : SlotWork s (s.closeStep3 i) := by
  unfold State.closeStep3
  dsimp only
  split
  · exact SlotWork.refl s
  · split
    · refine SlotWork.trans ?_ (SlotWork.changeState _ i _ _)
      exact SlotWork.updSlot s i _ fun _ => rfl
    · split
      · refine SlotWork.trans ?_ (SlotWork.changeState _ i _ _)
        exact SlotWork.updSlot s i _ fun _ => rfl
      · exact SlotWork.refl s

theorem closeStep4 (s : State) (i : SlotIndex) : SlotWork s (s.closeStep4 i) := by
  unfold State.closeStep4
  split
  · exact SlotWork.enterFenced s i
  · exact SlotWork.refl s

theorem closeStep5 (s : State) (i : SlotIndex) : SlotWork s (s.closeStep5 i) := by
  unfold State.closeStep5
  dsimp only
  split
  · exact SlotWork.enterProbation s i .restore
  · exact SlotWork.refl s

theorem closeStep6_config (r : SlotRecord) : r.closeStep6.config = r.config := by
  unfold SlotRecord.closeStep6; split <;> rfl

theorem setRequest (s : State) (i : SlotIndex) (o : Option ProbeOrigin) :
    CloseWork s (s.setRequest i o) :=
  ⟨rfl, rfl, rfl, rfl, rfl, rfl, rfl, rfl, id, Nat.le_refl _, fun _ => rfl⟩

theorem joinRequest (s : State) (i : SlotIndex) (o : ProbeOrigin) :
    CloseWork s (s.joinRequest i o) := by
  unfold State.joinRequest
  split
  · exact setRequest s i _
  · exact refl s

theorem quietRequest (s : State) (i : SlotIndex) : CloseWork s (s.quietRequest i) := by
  unfold State.quietRequest
  split
  · refine CloseWork.trans (joinRequest s i .quiet) (SlotWork.toClose ?_)
    exact SlotWork.updSlot _ i _ fun _ => rfl
  · exact refl s

theorem recoveryRequest (s : State) (i : SlotIndex) : CloseWork s (s.recoveryRequest i) := by
  unfold State.recoveryRequest
  split
  · refine CloseWork.trans (joinRequest s i .recovery) (SlotWork.toClose ?_)
    exact SlotWork.updSlot _ i _ fun _ => rfl
  · exact refl s

theorem closeStep7 (s : State) (i : SlotIndex) : CloseWork s (s.closeStep7 i) := by
  refine CloseWork.trans ?_ (recoveryRequest _ i)
  refine CloseWork.trans ?_ (quietRequest _ i)
  exact (SlotWork.updSlot s i SlotRecord.advanceCounts fun _ => rfl).toClose

theorem closeTail (s : State) (i : SlotIndex) : SlotWork s (s.closeTail i) :=
  SlotWork.updSlot s i _ fun _ => rfl

theorem windowClose (s : State) (i : SlotIndex) (start : Tick) :
    CloseWork s (s.windowClose i start) := by
  unfold State.windowClose
  dsimp only
  refine CloseWork.trans (CloseWork.trans ?_ (closeStep7 _ i)) (closeTail _ i).toClose
  refine SlotWork.toClose ?_
  refine SlotWork.trans ?_ (SlotWork.updSlot _ i _ closeStep6_config)
  refine SlotWork.trans ?_ (closeStep5 _ i)
  refine SlotWork.trans ?_ (closeStep4 _ i)
  refine SlotWork.trans ?_ (closeStep3 _ i)
  exact (closeStep1 s i start).trans (SlotWork.updSlot _ i _ fun _ => rfl)

theorem slotTurn (start : Tick) (s : State) (i : SlotIndex) :
    CloseWork s (State.slotTurn start s i) := by
  unfold State.slotTurn
  split
  · exact windowClose s i start
  · split
    · exact (closeTail s i).toClose
    · exact refl s

/-- The closes of a boundary, after the time base has opened the new window. -/
theorem slotTurns (start : Tick) (l : List SlotIndex) (s : State) :
    CloseWork s (l.foldl (State.slotTurn start) s) := foldl _ (slotTurn start) l s

end CloseWork

end Sys2Proof.Machine
end

