-- ==== Sys2Proof/Laws/Cancel.lean ====
section
/-! SUPPORT. What the cancellation of a probe leaves, block by block (R154, R156): the engine IDLE with its last
result, and of the slots what the removal of the PROBE entry asks for. -/

namespace Sys2Proof.Machine

/-- The engine of a cancelled probe. -/
def ProbeEngine.cancelled (e : ProbeEngine) (p : InFlight) : ProbeEngine :=
  { e with
    inFlight := none, pendingFrame := none, last := ⟨some ⟨p.addr, p.tag, p.origin⟩, .cancelled, none, true⟩ }

/-- The state in which a cancelled probe's entry is removed. -/
def State.cancelling (s : State) (p : InFlight) : State :=
  { s with engine := { s.engine with
      pendingFrame := none, last := ⟨some ⟨p.addr, p.tag, p.origin⟩, .cancelled, none, true⟩ } }.updSlot
    p.slot fun r => { r with lastProbe := .cancelled }

theorem State.cancelProbe_idle {s : State} (h : s.engine.inFlight = none) : s.cancelProbe = s := by
  unfold State.cancelProbe; rw [h]

/-- A cancellation is the removal of the PROBE entry, where the table has it, and then the engine's. -/
theorem State.cancelProbe_eq {s : State} {p : InFlight} (h : s.engine.inFlight = some p) :
    s.cancelProbe =
      let t := match (s.cancelling p).findEntry p.slot p.tag with
        | none => s.cancelling p
        | some e => (s.cancelling p).removeEntry e
      { t with engine := { t.engine with inFlight := none } } := by
  unfold State.cancelProbe
  rw [h]
  rfl

/-- The work of a cancellation, the engine apart. -/
theorem State.cancelProbe_work (s : State) :
    SlotWork { s with engine := s.cancelProbe.engine } s.cancelProbe := by
  cases h : s.engine.inFlight with
  | none => rw [State.cancelProbe_idle h]; exact SlotWork.refl s
  | some p =>
    rw [State.cancelProbe_eq h]
    have start : SlotWork { s with engine := (s.cancelling p).engine } (s.cancelling p) :=
      SlotWork.updSlot _ p.slot _ fun _ => rfl
    have final : ∀ t : State, SlotWork { s with engine := (s.cancelling p).engine } t →
        SlotWork { s with engine := { t.engine with inFlight := none } }
          { t with engine := { t.engine with inFlight := none } } := fun t w =>
      ⟨w.trunk, w.time, w.policy, rfl, w.store, w.pending, w.mgmt, w.bounce, w.outbox, w.table, w.config⟩
    dsimp only
    split
    · exact final _ start
    · exact final _ (start.trans (SlotWork.removeEntry _ _))

theorem State.cancelProbe_engine {s : State} {p : InFlight} (h : s.engine.inFlight = some p) :
    s.cancelProbe.engine = s.engine.cancelled p := by
  rw [State.cancelProbe_eq h]
  dsimp only
  split
  · rfl
  · rw [(SlotWork.removeEntry _ _).engine]; rfl

/-- The end of a drain changes nothing of a record that the emptied table leaves, but its state. -/
theorem State.settleDrain_clear (s : State) (i j : SlotIndex) : ∃ st,
    ((s.settleDrain i).slot j).clearEntries = { (s.slot j).clearEntries with state := st } ∧
      ((s.slot j).state ≠ .draining → st = (s.slot j).state) := by
  unfold State.settleDrain
  split
  · rename_i h
    unfold State.enterParked
    rw [State.queueAlert_slot, State.slot_updSlot]
    split
    · rename_i hij; subst hij
      exact ⟨.parked, rfl, fun hh => absurd h.1 hh⟩
    · exact ⟨_, rfl, fun _ => rfl⟩
  · exact ⟨_, rfl, fun _ => rfl⟩

theorem State.removeEntry_clear (s : State) (e : Entry) (j : SlotIndex) : ∃ st,
    ((s.removeEntry e).slot j).clearEntries = { (s.slot j).clearEntries with state := st } ∧
      ((s.slot j).state ≠ .draining → st = (s.slot j).state) := by
  unfold State.removeEntry
  generalize hu : State.updSlot { s with table := s.table.filter fun x => !decide (x.key = e.key) }
    e.slot (fun r => r.dropEntry e.kind) = u
  have same : (u.slot j).clearEntries = (s.slot j).clearEntries ∧ (u.slot j).state = (s.slot j).state := by
    rw [← hu, State.slot_updSlot]
    split
    · rename_i hh; subst hh
      cases e.kind <;> exact ⟨rfl, rfl⟩
    · exact ⟨rfl, rfl⟩
  obtain ⟨st, h1, h2⟩ := u.settleDrain_clear e.slot j
  rw [same.1] at h1
  rw [same.2] at h2
  exact ⟨st, h1, h2⟩

/-- A slot's record after a cancellation and the emptying of the table: its last probe outcome, and the end
of its drain. -/
theorem State.cancelProbe_clear (s : State) (j : SlotIndex) : ∃ st,
    (s.cancelProbe.slot j).clearEntries = { (s.slot j).clearEntries with
      state := st
      lastProbe := if s.engine.inFlight.map InFlight.slot = some j then .cancelled
        else (s.slot j).lastProbe } ∧
      ((s.slot j).state ≠ .draining → st = (s.slot j).state) := by
  cases h : s.engine.inFlight with
  | none => rw [State.cancelProbe_idle h]; exact ⟨_, rfl, fun _ => rfl⟩
  | some p =>
    have slot : (s.cancelling p).slot j = { s.slot j with
        lastProbe := if p.slot = j then .cancelled else (s.slot j).lastProbe } := by
      unfold State.cancelling
      rw [State.slot_updSlot]
      split
      · rename_i hh; subst hh; rfl
      · rfl
    have final : ∀ t : State, (∃ st, (t.slot j).clearEntries =
          { ((s.cancelling p).slot j).clearEntries with state := st } ∧
          (((s.cancelling p).slot j).state ≠ .draining → st = ((s.cancelling p).slot j).state)) →
        ∃ st, (t.slot j).clearEntries = { (s.slot j).clearEntries with
          state := st
          lastProbe := if (some p).map InFlight.slot = some j then .cancelled
            else (s.slot j).lastProbe } ∧
          ((s.slot j).state ≠ .draining → st = (s.slot j).state) := by
      rintro t ⟨st, h1, h2⟩
      rw [slot] at h1 h2
      exact ⟨st, by rw [h1]; simp [SlotRecord.clearEntries], h2⟩
    rw [State.cancelProbe_eq h]
    dsimp only
    split
    · exact final (s.cancelling p) ⟨_, rfl, fun _ => rfl⟩
    · rename_i e _
      exact final _ ((s.cancelling p).removeEntry_clear e j)

/-- Where no slot is DRAINING, a cancellation queues no alert. -/
theorem State.cancelProbe_quiet {s : State} (h : ∀ i, (s.slot i).state ≠ .draining) :
    s.cancelProbe.report = s.report ∧ s.cancelProbe.mgmt = s.mgmt := by
  cases hp : s.engine.inFlight with
  | none => rw [State.cancelProbe_idle hp]; exact ⟨rfl, rfl⟩
  | some p =>
    have state : ∀ i, ((s.cancelling p).slot i).state = (s.slot i).state := fun i => by
      unfold State.cancelling
      rw [State.slot_updSlot]
      split
      · rename_i hh; subst hh; rfl
      · rfl
    rw [State.cancelProbe_eq hp]
    dsimp only
    split
    · exact ⟨rfl, rfl⟩
    · rename_i e _
      unfold State.removeEntry State.settleDrain
      rw [if_neg]
      · exact ⟨rfl, rfl⟩
      · rintro ⟨hd, _⟩
        rw [State.slot_updSlot_self] at hd
        have keep : ∀ r : SlotRecord, (r.dropEntry e.kind).state = r.state := fun r => by
          cases e.kind <;> rfl
        rw [keep] at hd
        exact h e.slot ((state e.slot).symm.trans hd)

end Sys2Proof.Machine
end

