-- ==== Sys2Proof/Laws/Commands.lean ====
section
/-! SUPPORT. The execution of a management command, once for all commands: a copy that `Holds` runs its
rule, and the rule's answer ends in `answered` or `turnedAway`; and the slot address of a parameter. -/

namespace Sys2Proof.Machine

/-! ### Slot addresses -/

theorem State.slotIndex?_of_addresses {s : State} {a : Byte} {i : SlotIndex} (h : s.Addresses a i) :
    s.slotIndex? a.toNat = some i := by
  unfold State.Addresses at h
  have hi := i.isLt
  unfold State.slotIndex?
  rw [dif_pos (by omega)]
  congr 1
  apply Fin.ext
  simp only
  omega

theorem State.slotIndex?_of_outside {s : State} {a : Byte} (h : s.OutsideRange a) :
    s.slotIndex? a.toNat = none := by
  unfold State.slotIndex?
  split
  · rename_i hd
    refine absurd ?_ (h ⟨a.toNat - s.mgmt.watchBase, hd.2⟩)
    unfold State.Addresses
    simp only
    omega
  · rfl

/-! ### Executions -/

theorem State.Holds.canExecute {s : State} {code seq : Byte} {ps : List Byte} {how : Addressing}
    (h : s.Holds code ps seq how) (hg : how = .all → code ≠ 0x01 ∧ code ≠ 0x1D) :
    s.canExecute ⟨code :: ps, seq, how⟩ = true ∧
      s.needsReply ⟨code :: ps, seq, how⟩ = decide (how = .own) := by
  have hn : s.needsReply ⟨code :: ps, seq, how⟩ = decide (how = .own) := by
    cases how
    · simp [State.needsReply]
    · simp [State.needsReply]
    · have h1 : ¬ code = 1#8 := (hg rfl).1
      have h2 : ¬ code = 29#8 := (hg rfl).2
      simp [State.needsReply, CommandCopy.code?, h1, h2]
  refine ⟨?_, hn⟩
  unfold State.canExecute
  rw [hn]
  have hs : s.mode ≠ .starting := h.started
  cases how
  · simpa [hs] using h.room rfl
  · simp [hs]
  · simp [hs]

/-- A copy that can be executed, allowed so addressed and of the right length, comes to its rule. -/
theorem State.runCommand_holds {s : State} {code seq : Byte} {ps : List Byte} {how : Addressing}
    (h : s.Holds code ps seq how) (k : CommandForm) (hk : k.code = code)
    (hg : how = .all → code ≠ 0x01 ∧ code ≠ 0x1D) (ha : k.cls.allows how = true)
    (hl : ps.length = k.width) (effect : State → CommandCopy → CommandResult) :
    s.runCommand k effect =
      s.concludeCopy ⟨code :: ps, seq, how⟩ (effect s ⟨code :: ps, seq, how⟩) := by
  have hc := (h.canExecute hg).1
  subst hk
  unfold State.runCommand
  simp only [h.copy]
  rw [if_pos ⟨rfl, hc⟩]
  unfold State.executeCopy
  rw [if_neg (by simp [ha]), if_neg (by simp [hl, Nat.add_comm])]

/-- An accepted rule ends in `answered`. -/
theorem State.conclude_done {s t : State} {code seq : Byte} {ps : List Byte} {how : Addressing}
    {results : List Byte} (h : s.Holds code ps seq how)
    (hg : how = .all → code ≠ 0x01 ∧ code ≠ 0x1D) :
    s.concludeCopy ⟨code :: ps, seq, how⟩ (.done t results) = t.answered code seq how results := by
  unfold State.concludeCopy
  simp only [(h.canExecute hg).2]
  cases how <;> rfl

/-- A refusing rule ends in `turnedAway`. -/
theorem State.conclude_refuse {s : State} {code seq : Byte} {ps : List Byte} {how : Addressing}
    (r : ResultCode) (h : s.Holds code ps seq how) (hg : how = .all → code ≠ 0x01 ∧ code ≠ 0x1D) :
    s.concludeCopy ⟨code :: ps, seq, how⟩ (.refuse r) = s.turnedAway code seq how r.code := by
  show s.refuseCopy ⟨code :: ps, seq, how⟩ r = _
  unfold State.refuseCopy
  simp only [(h.canExecute hg).2]
  cases how
  · simp only [decide_true, if_true]
    simp [State.turnedAway, State.placeReply, State.clearCommand, State.replyFrame, State.mrp,
      CommandCopy.code?, be8]
  · simp [State.turnedAway, State.clearCommand, State.setCmdDropped, State.setFlags]
  · simp [State.turnedAway, State.clearCommand, State.setCmdDropped, State.setFlags]

/-- A copy whose rule accepts it runs to `answered`. -/
theorem State.runCommand_done {s t : State} {code seq : Byte} {ps : List Byte} {how : Addressing}
    {results : List Byte} {k : CommandForm} {effect : State → CommandCopy → CommandResult}
    (h : s.Holds code ps seq how) (hk : k.code = code) (hg : how = .all → code ≠ 0x01 ∧ code ≠ 0x1D)
    (ha : k.cls.allows how = true) (hl : ps.length = k.width)
    (hr : effect s ⟨code :: ps, seq, how⟩ = .done t results) :
    s.runCommand k effect = t.answered code seq how results := by
  rw [State.runCommand_holds h k hk hg ha hl, hr, State.conclude_done h hg]

/-- A copy whose rule refuses it runs to `turnedAway`. -/
theorem State.runCommand_refuse {s : State} {code seq : Byte} {ps : List Byte} {how : Addressing}
    {r : ResultCode} {k : CommandForm} {effect : State → CommandCopy → CommandResult}
    (h : s.Holds code ps seq how) (hk : k.code = code) (hg : how = .all → code ≠ 0x01 ∧ code ≠ 0x1D)
    (ha : k.cls.allows how = true) (hl : ps.length = k.width)
    (hr : effect s ⟨code :: ps, seq, how⟩ = .refuse r) :
    s.runCommand k effect = s.turnedAway code seq how r.code := by
  rw [State.runCommand_holds h k hk hg ha hl, hr, State.conclude_refuse r h hg]

/-- A copy that its command does not allow so addressed is refused with STATE. -/
theorem State.runCommand_addressing {s : State} {code seq : Byte} {ps : List Byte} {how : Addressing}
    {k : CommandForm} {effect : State → CommandCopy → CommandResult}
    (h : s.Holds code ps seq how) (hk : k.code = code) (hg : how = .all → code ≠ 0x01 ∧ code ≠ 0x1D)
    (ha : k.cls.allows how = false) : s.runCommand k effect = s.turnedAway code seq how 2 := by
  have hc := (h.canExecute hg).1
  subst hk
  unfold State.runCommand
  simp only [h.copy]
  rw [if_pos ⟨rfl, hc⟩]
  unfold State.executeCopy
  rw [if_pos ha]
  exact State.conclude_refuse .state h hg

/-- A copy of a wrong length is refused with RANGE. -/
theorem State.runCommand_length {s : State} {code seq : Byte} {ps : List Byte} {how : Addressing}
    {k : CommandForm} {effect : State → CommandCopy → CommandResult}
    (h : s.Holds code ps seq how) (hk : k.code = code) (hg : how = .all → code ≠ 0x01 ∧ code ≠ 0x1D)
    (ha : k.cls.allows how = true) (hl : ps.length ≠ k.width) :
    s.runCommand k effect = s.turnedAway code seq how 3 := by
  have hc := (h.canExecute hg).1
  subst hk
  unfold State.runCommand
  simp only [h.copy]
  rw [if_pos ⟨rfl, hc⟩]
  unfold State.executeCopy
  rw [if_neg (by simp [ha]), if_pos (by simp only [List.length_cons]; omega)]
  exact State.conclude_refuse .range h hg

/-- A slot command's rule at a slot address of the watch range. -/
theorem slotRule_addresses {s : State} {a : Byte} {i : SlotIndex} (h : s.Addresses a i)
    (rule : State → SlotIndex → CommandCopy → CommandResult) (c : CommandCopy)
    (hc : p8 c.params 0 = a.toNat) : slotRule rule s c = rule s i c := by
  unfold slotRule
  rw [hc, State.slotIndex?_of_addresses h]

/-- A slot command's rule at a byte outside the watch range. -/
theorem slotRule_outside {s : State} {a : Byte} (h : s.OutsideRange a)
    (rule : State → SlotIndex → CommandCopy → CommandResult) (c : CommandCopy)
    (hc : p8 c.params 0 = a.toNat) : slotRule rule s c = .refuse .range := by
  unfold slotRule
  rw [hc, State.slotIndex?_of_outside h]

end Sys2Proof.Machine
end

