-- ==== Sys2Proof/Laws/Table.lean ====
section
/-! SUPPORT. What the operations of the pending table leave of entries and slot records, and that they
keep table and slots in agreement (`State.TableConsistent`). -/

namespace Sys2Proof.Machine

/-! ### What a slot record owes the table -/

/-- A slot's state admits its entries (R63, R87): none of either kind when VACANT or PARKED, no REQUEST
entry when FENCED. -/
structure SlotRecord.Fits (r : SlotRecord) : Prop where
  idle : r.state.unwatched = true ∨ r.state = .fenced → r.requestCount = 0
  unwatched : r.state.unwatched = true → r.probeEntry = false

/-- The record keeps its entry count, its entry flag and its twin. -/
structure SlotRecord.SameEntries (a b : SlotRecord) : Prop where
  count : b.requestCount = a.requestCount
  flag : b.probeEntry = a.probeEntry
  twin : b.config.twin = a.config.twin

theorem SlotRecord.SameEntries.refl (r : SlotRecord) : r.SameEntries r := ⟨rfl, rfl, rfl⟩

theorem SlotRecord.Fits.same {a b : SlotRecord} (h : a.Fits) (k : a.SameEntries b)
    (hs : b.state = a.state) : b.Fits := by
  refine ⟨fun x => ?_, fun x => ?_⟩
  · rw [k.count]; rw [hs] at x; exact h.idle x
  · rw [k.flag]; rw [hs] at x; exact h.unwatched x

theorem SlotRecord.Fits.accepting {r : SlotRecord} (h : r.state.unwatched = false)
    (hf : r.state ≠ .fenced) : r.Fits := by
  refine ⟨fun x => ?_, fun x => ?_⟩
  · rcases x with x | x
    · rw [h] at x; cases x
    · exact absurd x hf
  · rw [h] at x; cases x

theorem SlotRecord.Fits.empty {r : SlotRecord} (h : r.requestCount = 0) (hp : r.probeEntry = false) :
    r.Fits := ⟨fun _ => h, fun _ => hp⟩

/-- The clauses of the agreement that read the table, the entry counts and the probe in flight, the slot
states apart. -/
structure State.TableAgrees (s : State) : Prop where
  keys : (s.table.map Entry.key).Nodup
  counts : ∀ i, (s.slot i).requestCount = (s.ageOrder i).length
  probes : ∀ i, (s.slot i).probeEntry = true ↔ ∃ e ∈ s.table, e.slot = i ∧ e.kind = .probe
  inFlight : ∀ e ∈ s.table, e.kind = .probe →
    e.state = .opened ∧ e.partner = none ∧ e.pairWindow = none ∧
      ∃ p, s.engine.inFlight = some p ∧ e.key = ⟨p.slot, p.tag⟩
  partners : ∀ e ∈ s.table, ∀ k, e.partner = some k → k.slot ≠ e.slot
  twins : ∀ i, (s.slot i).config.twin ≠ some i

theorem State.TableConsistent.agrees {s : State} (h : s.TableConsistent) : s.TableAgrees :=
  ⟨h.keys, h.counts, h.probes, h.inFlight, h.partners, h.twins⟩

theorem State.TableConsistent.fits {s : State} (h : s.TableConsistent) (i : SlotIndex) :
    (s.slot i).Fits := ⟨h.idle i, h.unwatched i⟩

theorem State.TableAgrees.consistent {s : State} (h : s.TableAgrees) (f : ∀ i, (s.slot i).Fits) :
    s.TableConsistent :=
  ⟨h.keys, h.counts, h.probes, h.inFlight, h.partners, fun i => (f i).idle, fun i => (f i).unwatched,
    h.twins⟩

/-- Agreement read on the table, the probe in flight and the records. -/
theorem State.TableAgrees.of_slots {s t : State} (h : s.TableAgrees) (table : t.table = s.table)
    (inFlight : t.engine.inFlight = s.engine.inFlight)
    (same : ∀ i, (s.slot i).SameEntries (t.slot i)) : t.TableAgrees where
  keys := by rw [table]; exact h.keys
  counts i := by
    rw [(same i).count, h.counts i]; unfold State.ageOrder; rw [table]
  probes i := by rw [(same i).flag, h.probes i, table]
  inFlight := by rw [table, inFlight]; exact h.inFlight
  partners := by rw [table]; exact h.partners
  twins i := by rw [(same i).twin]; exact h.twins i

theorem State.TableConsistent.of_slots {s t : State} (h : s.TableConsistent) (table : t.table = s.table)
    (inFlight : t.engine.inFlight = s.engine.inFlight)
    (same : ∀ i, (s.slot i).SameEntries (t.slot i)) (fits : ∀ i, (t.slot i).Fits) :
    t.TableConsistent :=
  (h.agrees.of_slots table inFlight same).consistent fits

/-- The same slots: nothing but table and engine is read. -/
theorem State.TableConsistent.congr {s t : State} (h : s.TableConsistent) (table : t.table = s.table)
    (inFlight : t.engine.inFlight = s.engine.inFlight) (slots : ∀ i, t.slot i = s.slot i) :
    t.TableConsistent :=
  h.of_slots table inFlight (fun i => by rw [slots i]; exact .refl _)
    (fun i => by rw [slots i]; exact h.fits i)

theorem State.TableAgrees.setSlot {s : State} (h : s.TableAgrees) (i : SlotIndex) (r : SlotRecord)
    (same : (s.slot i).SameEntries r) : (s.setSlot i r).TableAgrees := by
  refine h.of_slots rfl rfl fun j => ?_
  rw [State.slot_setSlot]; split
  · subst_vars; exact same
  · exact .refl _

theorem State.TableConsistent.setSlot {s : State} (h : s.TableConsistent) (i : SlotIndex)
    (r : SlotRecord) (same : (s.slot i).SameEntries r) (fits : r.Fits) :
    (s.setSlot i r).TableConsistent := by
  refine (h.agrees.setSlot i r same).consistent fun j => ?_
  rw [State.slot_setSlot]; split
  · exact fits
  · exact h.fits j

/-- A change of one record that keeps its entries and its state. -/
theorem State.TableConsistent.updSlot {s : State} (h : s.TableConsistent) (i : SlotIndex)
    (f : SlotRecord → SlotRecord) (same : ∀ r : SlotRecord, r.SameEntries (f r))
    (state : ∀ r, (f r).state = r.state) : (s.updSlot i f).TableConsistent :=
  h.setSlot i _ (same _) ((h.fits i).same (same _) (state _))

theorem State.TableAgrees.queueAlert {s : State} (h : s.TableAgrees) (r : AlertRecord) :
    (s.queueAlert r).TableAgrees :=
  h.of_slots (s.queueAlert_table r) (by rw [s.queueAlert_engine r]) fun i => by
    rw [s.queueAlert_slot r]; exact .refl _

theorem State.TableConsistent.queueAlert {s : State} (h : s.TableConsistent) (r : AlertRecord) :
    (s.queueAlert r).TableConsistent :=
  h.congr (s.queueAlert_table r) (by rw [s.queueAlert_engine r]) (s.queueAlert_slot r)

theorem State.TableConsistent.credit {s : State} (h : s.TableConsistent) (i : SlotIndex)
    (c : CounterName) : (s.credit i c).TableConsistent :=
  h.updSlot i _ (fun _ => ⟨rfl, rfl, rfl⟩) (fun _ => rfl)

/-! ### Entries found -/

/-- In a table without repeated keys the entry of a key is the one the search finds. -/
theorem find_of_mem {l : List Entry} (h : (l.map Entry.key).Nodup) {e : Entry} (he : e ∈ l) (k : EntryKey)
    (hk : e.key = k) : (l.find? fun x => decide (x.key = k)) = some e := by
  induction l with
  | nil => cases he
  | cons a l ih =>
    rw [List.map_cons, List.nodup_cons] at h
    rcases List.mem_cons.mp he with rfl | he'
    · simp [hk]
    · have hne : a.key ≠ k := fun hh => h.1 (by rw [hh, ← hk]; exact List.mem_map_of_mem he')
      rw [List.find?_cons_of_neg (by simpa using hne)]
      exact ih h.2 he'

theorem State.findEntry_some {s : State} {i : SlotIndex} {tag : Tag} {e : Entry}
    (h : s.findEntry i tag = some e) : e ∈ s.table ∧ e.key = ⟨i, tag⟩ := by
  unfold State.findEntry at h
  exact ⟨List.mem_of_find?_eq_some h, by simpa using List.find?_some h⟩

theorem State.findEntry_none {s : State} {i : SlotIndex} {tag : Tag} (h : s.findEntry i tag = none) :
    ∀ e ∈ s.table, e.key ≠ ⟨i, tag⟩ := by
  intro e he
  unfold State.findEntry at h
  simpa using List.find?_eq_none.mp h e he

theorem State.TableAgrees.findEntry {s : State} (h : s.TableAgrees) {e : Entry} (he : e ∈ s.table) :
    s.findEntry e.slot e.tag = some e := find_of_mem h.keys he _ rfl

/-- Two entries of one key are one entry. -/
theorem State.TableAgrees.unique {s : State} (h : s.TableAgrees) {a b : Entry} (ha : a ∈ s.table)
    (hb : b ∈ s.table) (k : a.key = b.key) : a = b := by
  have := find_of_mem h.keys ha _ k
  rw [find_of_mem h.keys hb _ rfl] at this
  exact (Option.some.inj this).symm

/-! ### An entry changed in place -/

/-- A change that keeps slot, tag and kind keeps the agreement when the changed entries obey its clauses. -/
theorem State.TableAgrees.updEntry {s : State} (h : s.TableAgrees) (k : EntryKey)
    (f : Entry → Entry) (slot : ∀ e, (f e).slot = e.slot) (tag : ∀ e, (f e).tag = e.tag)
    (kind : ∀ e, (f e).kind = e.kind)
    (probe : ∀ e ∈ s.table, e.key = k → e.kind = .probe →
      (f e).state = .opened ∧ (f e).partner = none ∧ (f e).pairWindow = none)
    (partner : ∀ e ∈ s.table, e.key = k → ∀ q, (f e).partner = some q → q.slot ≠ e.slot) :
    (s.updEntry k f).TableAgrees := by
  have hkey : ∀ e, (f e).key = e.key := fun e => by unfold Entry.key; rw [slot, tag]
  have hg : ∀ e : Entry, (if e.key = k then f e else e).slot = e.slot ∧
      (if e.key = k then f e else e).kind = e.kind ∧ (if e.key = k then f e else e).key = e.key := by
    intro e; split
    · exact ⟨slot e, kind e, hkey e⟩
    · exact ⟨rfl, rfl, rfl⟩
  constructor
  · show ((s.table.map _).map Entry.key).Nodup
    rw [List.map_map, List.map_congr_left (g := Entry.key)]
    · exact h.keys
    · intro e _; exact (hg e).2.2
  · intro i
    rw [State.updEntry_slot, h.counts i]
    unfold State.ageOrder State.updEntry
    rw [List.filter_map, List.length_map]
    congr 1
    apply List.filter_congr
    intro e _
    simp only [Function.comp, (hg e).1, (hg e).2.1]
  · intro i
    rw [State.updEntry_slot, h.probes i]
    constructor
    · rintro ⟨e, he, h1, h2⟩
      exact ⟨_, List.mem_map_of_mem he, by rw [(hg e).1]; exact h1, by rw [(hg e).2.1]; exact h2⟩
    · rintro ⟨e, he, h1, h2⟩
      obtain ⟨e', he', rfl⟩ := List.mem_map.mp he
      exact ⟨e', he', by rw [← (hg e').1]; exact h1, by rw [← (hg e').2.1]; exact h2⟩
  · intro e he hk
    obtain ⟨e', he', rfl⟩ := List.mem_map.mp he
    rw [(hg e').2.1] at hk
    obtain ⟨h1, h2, h3, p, h4, h5⟩ := h.inFlight e' he' hk
    refine ⟨?_, ?_, ?_, p, h4, by rw [(hg e').2.2]; exact h5⟩ <;> split
    · exact (probe e' he' ‹_› hk).1
    · exact h1
    · exact (probe e' he' ‹_› hk).2.1
    · exact h2
    · exact (probe e' he' ‹_› hk).2.2
    · exact h3
  · intro e he q hq
    obtain ⟨e', he', rfl⟩ := List.mem_map.mp he
    rw [(hg e').1]
    split at hq
    · exact partner e' he' ‹_› q hq
    · exact h.partners e' he' q hq
  · intro i; exact h.twins i

theorem State.TableAgrees.unpair {s : State} (h : s.TableAgrees) (k : EntryKey) :
    (s.updEntry k Entry.unpair).TableAgrees :=
  h.updEntry k _ (fun _ => rfl) (fun _ => rfl) (fun _ => rfl)
    (fun e he _ hk => ⟨(h.inFlight e he hk).1, rfl, rfl⟩) (fun _ _ _ _ hq => by cases hq)

/-! ### Removals -/

/-- Without repeated keys, dropping a key erases its entry. -/
theorem filter_key_eq_erase {l : List Entry} (h : (l.map Entry.key).Nodup) {e : Entry} (he : e ∈ l) :
    (l.filter fun x => !decide (x.key = e.key)) = l.erase e := by
  have hn : l.Nodup := List.Nodup.of_map _ h
  rw [hn.erase_eq_filter]
  apply List.filter_congr
  intro x hx
  by_cases hxe : x = e
  · subst hxe; simp
  · have : x.key ≠ e.key := fun hk => hxe (by
      have a := find_of_mem h hx _ hk
      rw [find_of_mem h he _ rfl] at a
      exact (Option.some.inj a).symm)
    simp [hxe, this]

/-- The end of a drain changes one record's state and lost-tag list. -/
theorem State.slot_settleDrain (s : State) (i j : SlotIndex) :
    (s.settleDrain i).slot j =
      if i = j ∧ (s.slot i).state = .draining ∧ (s.slot i).noEntry = true ∧
          (s.slot i).fencePending = false then (s.slot i).toParked else s.slot j := by
  unfold State.settleDrain
  split
  · rename_i h
    unfold State.enterParked
    rw [State.queueAlert_slot, State.slot_updSlot]
    by_cases e : i = j
    · subst e; rw [if_pos rfl, if_pos ⟨rfl, h⟩]
    · rw [if_neg e, if_neg fun x => e x.1]
  · rename_i h
    rw [if_neg (fun x => h x.2)]

@[simp] theorem State.settleDrain_table (s : State) (i : SlotIndex) :
    (s.settleDrain i).table = s.table := by
  unfold State.settleDrain
  split
  · unfold State.enterParked; rw [State.queueAlert_table]; rfl
  · rfl

@[simp] theorem State.settleDrain_engine (s : State) (i : SlotIndex) :
    (s.settleDrain i).engine = s.engine := (SlotWork.settleDrain s i).engine

theorem State.TableAgrees.settleDrain {s : State} (h : s.TableAgrees) (i : SlotIndex) :
    (s.settleDrain i).TableAgrees := by
  refine h.of_slots (s.settleDrain_table i) (by rw [s.settleDrain_engine i]) fun j => ?_
  rw [State.slot_settleDrain]; split
  · rename_i e; rw [← e.1]; exact ⟨rfl, rfl, rfl⟩
  · exact .refl _

/-- The table after a removal. -/
@[simp] theorem State.removeEntry_table (s : State) (e : Entry) :
    (s.removeEntry e).table = s.table.filter fun x => !decide (x.key = e.key) := by
  unfold State.removeEntry; rw [State.settleDrain_table]; rfl

@[simp] theorem State.removeEntry_engine (s : State) (e : Entry) : (s.removeEntry e).engine = s.engine :=
  (SlotWork.removeEntry s e).engine

/-- What a removal leaves of a record. -/
theorem State.slot_removeEntry (s : State) (e : Entry) (j : SlotIndex) :
    (s.removeEntry e).slot j =
      if e.slot = j then
        let r := (s.slot e.slot).dropEntry e.kind
        if r.state = .draining ∧ r.noEntry = true ∧ r.fencePending = false then r.toParked else r
      else s.slot j := by
  unfold State.removeEntry
  rw [State.slot_settleDrain, State.slot_updSlot_self, State.slot_updSlot]
  by_cases h : e.slot = j
  · subst h; simp only [true_and, if_true]; rfl
  · simp only [h, false_and, if_false]; rfl

theorem SlotRecord.Fits.dropEntry {r : SlotRecord} (h : r.Fits) (k : EntryKind) : (r.dropEntry k).Fits := by
  cases k
  · exact ⟨fun x => by show r.requestCount - 1 = 0; rw [h.idle x], h.unwatched⟩
  · exact ⟨h.idle, fun _ => rfl⟩

/-- A removal leaves every record whose state admits its entries so. -/
theorem State.fits_removeEntry {s : State} {e : Entry} {j : SlotIndex} (h : (s.slot j).Fits) :
    ((s.removeEntry e).slot j).Fits := by
  rw [State.slot_removeEntry]; split
  · subst_vars
    have hd := h.dropEntry e.kind
    simp only
    split
    · rename_i hn
      have hn := hn.2.1
      simp only [SlotRecord.noEntry, Bool.and_eq_true, decide_eq_true_eq, Bool.not_eq_true'] at hn
      exact .empty hn.1 hn.2
    · exact hd
  · exact h

/-- The removal of an entry of the table keeps the agreement. -/
theorem State.TableAgrees.removeEntry {s : State} (h : s.TableAgrees) {e : Entry}
    (he : e ∈ s.table) : (s.removeEntry e).TableAgrees := by
  unfold State.removeEntry
  apply State.TableAgrees.settleDrain
  have ht := filter_key_eq_erase h.keys he
  have hmem : ∀ x ∈ s.table.filter (fun x => !decide (x.key = e.key)), x ∈ s.table := fun x hx =>
    (List.mem_filter.mp hx).1
  constructor
  · exact List.Nodup.sublist (List.filter_sublist.map _) h.keys
  · intro i
    have hc : ((s.table.erase e).filter fun x => decide (x.slot = i) && decide (x.kind = .request)).length
        = (s.ageOrder i).length - if e.slot = i ∧ e.kind = .request then 1 else 0 := by
      unfold State.ageOrder
      rw [← List.countP_eq_length_filter, ← List.countP_eq_length_filter, List.countP_erase]
      simp [he]
    show _ = ((s.table.filter fun x => !decide (x.key = e.key)).filter
      fun x => decide (x.slot = i) && decide (x.kind = .request)).length
    rw [ht, hc, State.slot_updSlot]
    split
    · subst_vars
      show ((s.slot e.slot).dropEntry e.kind).requestCount = _
      cases hk : e.kind <;> simp [SlotRecord.dropEntry, h.counts e.slot]
    · rename_i hne
      simp only [hne, false_and, if_false, Nat.sub_zero]
      exact h.counts i
  · intro i
    rw [State.slot_updSlot]
    have hfilter : ∀ x : Entry, x ∈ s.table.filter (fun x => !decide (x.key = e.key)) ↔
        x ∈ s.table ∧ x.key ≠ e.key := fun x => by simp [List.mem_filter]
    show _ ↔ ∃ x ∈ s.table.filter (fun x => !decide (x.key = e.key)), x.slot = i ∧ x.kind = .probe
    have hold := h.probes i
    by_cases hi : e.slot = i
    · subst hi
      rw [if_pos rfl]
      show ((s.slot e.slot).dropEntry e.kind).probeEntry = true ↔ _
      cases hk : e.kind
      · simp only [SlotRecord.dropEntry]
        rw [hold]
        constructor
        · rintro ⟨x, hx, h1, h2⟩
          refine ⟨x, (hfilter x).mpr ⟨hx, fun hkey => ?_⟩, h1, h2⟩
          rw [h.unique hx he hkey, hk] at h2; cases h2
        · rintro ⟨x, hx, h1, h2⟩; exact ⟨x, ((hfilter x).mp hx).1, h1, h2⟩
      · simp only [SlotRecord.dropEntry]
        constructor
        · intro hh; cases hh
        · rintro ⟨x, hx, h1, h2⟩
          exfalso
          obtain ⟨hx1, hx2⟩ := (hfilter x).mp hx
          obtain ⟨_, _, _, p, hp, hkp⟩ := h.inFlight x hx1 h2
          obtain ⟨_, _, _, q, hq, hkq⟩ := h.inFlight e he hk
          rw [hp] at hq; cases hq
          exact hx2 (hkp.trans hkq.symm)
    · rw [if_neg hi]
      show (s.slot i).probeEntry = true ↔ _
      rw [hold]
      constructor
      · rintro ⟨x, hx, h1, h2⟩
        refine ⟨x, (hfilter x).mpr ⟨hx, fun hkey => hi ?_⟩, h1, h2⟩
        rw [← h.unique hx he hkey]; exact h1
      · rintro ⟨x, hx, h1, h2⟩; exact ⟨x, ((hfilter x).mp hx).1, h1, h2⟩
  · intro x hx hk; exact h.inFlight x (hmem x hx) hk
  · intro x hx; exact h.partners x (hmem x hx)
  · intro i
    rw [State.slot_updSlot]
    split
    · subst_vars
      have : ((s.slot e.slot).dropEntry e.kind).config = (s.slot e.slot).config := by
        cases e.kind <;> rfl
      show ((s.slot e.slot).dropEntry e.kind).config.twin ≠ _
      rw [this]; exact h.twins e.slot
    · exact h.twins i

theorem State.TableConsistent.removeEntry {s : State} (h : s.TableConsistent) {e : Entry}
    (he : e ∈ s.table) : (s.removeEntry e).TableConsistent :=
  (h.agrees.removeEntry he).consistent fun j => s.fits_removeEntry (h.fits j)

/-- A removal leaves every other entry. -/
theorem State.mem_removeEntry {s : State} {e x : Entry} :
    x ∈ (s.removeEntry e).table ↔ x ∈ s.table ∧ x.key ≠ e.key := by
  rw [State.removeEntry_table]; simp [List.mem_filter]

/-! ### A partner released, a slot orphaned (R63, R83) -/

theorem State.TableAgrees.releasePartner {s : State} (h : s.TableAgrees) (e : Entry) :
    (s.releasePartner e).TableAgrees := by
  unfold State.releasePartner
  split
  · exact h
  · split
    · exact h
    · rename_i hf
      split
      · exact h.removeEntry (State.findEntry_some hf).1
      · exact h.unpair _

theorem State.fits_releasePartner {s : State} (e : Entry) {j : SlotIndex} (h : (s.slot j).Fits) :
    ((s.releasePartner e).slot j).Fits := by
  unfold State.releasePartner
  split
  · exact h
  · split
    · exact h
    · split
      · exact s.fits_removeEntry h
      · exact h

/-- A release changes no record but that of the partner's slot. -/
theorem State.slot_releasePartner {s : State} {e : Entry} {j : SlotIndex}
    (h : ∀ k, e.partner = some k → k.slot ≠ j) : (s.releasePartner e).slot j = s.slot j := by
  unfold State.releasePartner
  split
  · rfl
  · rename_i k hk
    split
    · rfl
    · rename_i p hf
      split
      · rw [State.slot_removeEntry, if_neg]
        have := (State.findEntry_some hf).2
        intro hh
        exact h k hk (by rw [← hh, show p.slot = k.slot from congrArg EntryKey.slot this])
      · rfl

/-- A release leaves every entry that is not the partner. -/
theorem State.mem_releasePartner_of_ne {s : State} {e x : Entry} (h : e.partner ≠ some x.key) :
    x ∈ (s.releasePartner e).table ↔ x ∈ s.table := by
  unfold State.releasePartner
  split
  · rfl
  · rename_i k hk
    have hx : x.key ≠ k := fun hh => h (by rw [hk, hh])
    split
    · rfl
    · rename_i p hf
      have hp := (State.findEntry_some hf).2
      split
      · rw [State.mem_removeEntry]
        exact ⟨And.left, fun y => ⟨y, by rw [hp]; exact hx⟩⟩
      · show x ∈ s.table.map _ ↔ _
        rw [List.mem_map]
        constructor
        · rintro ⟨y, hy, hyx⟩
          split at hyx
          · rename_i hyk
            exact absurd (by rw [← hyx]; exact hyk) hx
          · rw [← hyx]; exact hy
        · intro hy; exact ⟨x, hy, if_neg hx⟩

/-- The partner: gone when HELD, else unpaired. -/
theorem State.TableAgrees.releasePartner_partner {s : State} (h : s.TableAgrees) {e x : Entry}
    (hx : x ∈ s.table) (hp : e.partner = some x.key) :
    (x.state = .held → ∀ y ∈ (s.releasePartner e).table, y.key ≠ x.key) ∧
    (x.state ≠ .held → x.unpair ∈ (s.releasePartner e).table) := by
  have hf : s.findEntry x.key.slot x.key.tag = some x := h.findEntry hx
  unfold State.releasePartner
  rw [hp]
  simp only [hf]
  refine ⟨fun hs y hy => ?_, fun hs => ?_⟩
  · rw [if_pos hs] at hy; exact (State.mem_removeEntry.mp hy).2
  · rw [if_neg hs]
    exact List.mem_map.mpr ⟨x, hx, if_pos rfl⟩

/-- The keys of a table after a release are among those before. -/
theorem State.key_releasePartner {s : State} {e x : Entry} (h : x ∈ (s.releasePartner e).table) :
    ∃ y ∈ s.table, y.key = x.key := by
  unfold State.releasePartner at h
  split at h
  · exact ⟨x, h, rfl⟩
  · split at h
    · exact ⟨x, h, rfl⟩
    · split at h
      · exact ⟨x, (State.mem_removeEntry.mp h).1, rfl⟩
      · obtain ⟨y, hy, hyx⟩ := List.mem_map.mp h
        refine ⟨y, hy, ?_⟩
        rw [← hyx]; split <;> rfl

/-- The entry whose partner is released stays itself. -/
theorem State.TableAgrees.mem_releasePartner_self {s : State} (h : s.TableAgrees) {e : Entry}
    (he : e ∈ s.table) : e ∈ (s.releasePartner e).table :=
  (State.mem_releasePartner_of_ne fun hp => h.partners e he e.key hp rfl).mpr he

theorem State.TableAgrees.orphanEntry {s : State} (h : s.TableAgrees) {e : Entry} (he : e ∈ s.table) :
    (s.orphanEntry e).TableAgrees :=
  (h.releasePartner e).removeEntry (h.mem_releasePartner_self he)

/-- Orphaning REQUEST entries of a FENCED slot one after another: what becomes of the slot, of the other
records and of the entries. -/
theorem State.TableAgrees.orphans {i : SlotIndex} (l : List Entry) {s : State} (h : s.TableAgrees)
    (hl : ∀ e ∈ l, e ∈ s.table ∧ e.slot = i ∧ e.kind = .request) (hn : (l.map Entry.key).Nodup)
    (hf : (s.slot i).state = .fenced) :
    (l.foldl State.orphanEntry s).TableAgrees ∧
    (∀ j, (s.slot j).Fits → ((l.foldl State.orphanEntry s).slot j).Fits) ∧
    (l.foldl State.orphanEntry s).slot i =
      { s.slot i with requestCount := (s.slot i).requestCount - l.length } ∧
    (∀ x ∈ (l.foldl State.orphanEntry s).table, (∀ e ∈ l, x.key ≠ e.key) ∧ ∃ y ∈ s.table, y.key = x.key) ∧
    (∀ x ∈ s.table, (∀ e ∈ l, x.key ≠ e.key) →
      ((∀ e ∈ l, e.partner ≠ some x.key) → x ∈ (l.foldl State.orphanEntry s).table) ∧
      ((∃ e ∈ l, e.partner = some x.key) →
        (x.state = .held → ∀ y ∈ (l.foldl State.orphanEntry s).table, y.key ≠ x.key) ∧
        (x.state ≠ .held → x.unpair ∈ (l.foldl State.orphanEntry s).table))) := by
  induction l generalizing s with
  | nil =>
    refine ⟨h, fun _ => id, by simp, fun x hx => ⟨by simp, x, hx, rfl⟩, fun x hx _ => ⟨fun _ => hx, ?_⟩⟩
    rintro ⟨e, he, _⟩; cases he
  | cons a l ih =>
    obtain ⟨ha, has, hak⟩ := hl a (by simp)
    rw [List.map_cons, List.nodup_cons] at hn
    have hne : ∀ e ∈ l, e.key ≠ a.key := fun e he hk => hn.1 (by rw [← hk]; exact List.mem_map_of_mem he)
    have hpa : ∀ k, a.partner = some k → k.slot ≠ i := fun k hk => by
      rw [← has]; exact h.partners a ha k hk
    have h1 := h.orphanEntry ha
    have hslot : (s.orphanEntry a).slot i =
        { s.slot i with requestCount := (s.slot i).requestCount - 1 } := by
      unfold State.orphanEntry
      rw [State.slot_removeEntry, if_pos has, has, State.slot_releasePartner hpa, hak]
      simp only [SlotRecord.dropEntry, hf, reduceCtorEq, false_and, if_false]
    have step : ∀ x, x.key ≠ a.key → a.partner ≠ some x.key →
        (x ∈ (s.orphanEntry a).table ↔ x ∈ s.table) := fun x hx hp => by
      unfold State.orphanEntry
      rw [State.mem_removeEntry, State.mem_releasePartner_of_ne hp]
      exact ⟨And.left, fun y => ⟨y, hx⟩⟩
    have hl1 : ∀ e ∈ l, e ∈ (s.orphanEntry a).table ∧ e.slot = i ∧ e.kind = .request := fun e he => by
      obtain ⟨e1, e2, e3⟩ := hl e (by simp [he])
      exact ⟨(step e (hne e he) fun hp => hpa _ hp e2).mpr e1, e2, e3⟩
    obtain ⟨g1, g2, g3, g4, g5⟩ := ih h1 hl1 hn.2 (by rw [hslot]; exact hf)
    rw [List.foldl_cons]
    refine ⟨g1, fun j hj => g2 j ?_, ?_, fun x hx => ?_, fun x hx hxl => ?_⟩
    · exact State.fits_removeEntry (State.fits_releasePartner a hj)
    · rw [g3, hslot, List.length_cons]
      simp only [Nat.sub_sub, Nat.add_comm]
    · obtain ⟨k1, y, hy, k2⟩ := g4 x hx
      obtain ⟨hy1, hy2⟩ := State.mem_removeEntry.mp hy
      obtain ⟨z, hz, k3⟩ := State.key_releasePartner hy1
      refine ⟨fun e he => ?_, z, hz, k3.trans k2⟩
      rcases List.mem_cons.mp he with rfl | he
      · rw [← k2]; exact hy2
      · exact k1 e he
    · have hxa := hxl a (by simp)
      have hxl' : ∀ e ∈ l, x.key ≠ e.key := fun e he => hxl e (by simp [he])
      by_cases hp : a.partner = some x.key
      · obtain ⟨p1, p2⟩ := h.releasePartner_partner hx hp
        refine ⟨fun hno => absurd hp (hno a (by simp)), fun _ => ⟨fun hs y hy hk => ?_, fun hs => ?_⟩⟩
        · obtain ⟨_, z, hz, k2⟩ := g4 y hy
          exact p1 hs z (State.mem_removeEntry.mp hz).1 (k2.trans hk)
        · have hu : x.unpair ∈ (s.orphanEntry a).table := State.mem_removeEntry.mpr ⟨p2 hs, hxa⟩
          by_cases hl2 : ∃ e ∈ l, e.partner = some x.key
          · exact ((g5 x.unpair hu hxl').2 hl2).2 hs
          · exact (g5 x.unpair hu hxl').1 fun e he hh => hl2 ⟨e, he, hh⟩
      · have hx1 := (step x hxa hp).mpr hx
        refine ⟨fun hno => (g5 x hx1 hxl').1 fun e he => hno e (by simp [he]), ?_⟩
        rintro ⟨e, he, hep⟩
        rcases List.mem_cons.mp he with rfl | he
        · exact absurd hep hp
        · exact (g5 x hx1 hxl').2 ⟨e, he, hep⟩

/-- The state in which a slot's entries are orphaned at fence entry (R139). -/
def State.fencing (s : State) (i : SlotIndex) : State :=
  s.updSlot i fun r => { r with fencePending := false, state := .fenced }

/-- What fence entry leaves of table and records (R63, R139), its alerts apart. -/
theorem State.TableConsistent.orphanSlot {s : State} (h : s.TableConsistent) (i : SlotIndex) :
    ((s.fencing i).orphanSlot i).TableAgrees ∧
    (∀ j, j ≠ i → (((s.fencing i).orphanSlot i).slot j).Fits) ∧
    ((s.fencing i).orphanSlot i).slot i =
      { s.slot i with fencePending := false, state := .fenced, requestCount := 0 } ∧
    ((s.fencing i).orphanSlot i).ageOrder i = [] ∧
    (∀ x ∈ s.table, (x.slot ≠ i ∨ x.kind = .probe) →
      ((∀ e ∈ s.ageOrder i, e.partner ≠ some x.key) → x ∈ ((s.fencing i).orphanSlot i).table) ∧
      ((∃ e ∈ s.ageOrder i, e.partner = some x.key) →
        (x.state = .held → ∀ y ∈ ((s.fencing i).orphanSlot i).table, y.key ≠ x.key) ∧
        (x.state ≠ .held → x.unpair ∈ ((s.fencing i).orphanSlot i).table))) := by
  have hs1 : (s.fencing i).TableAgrees := h.agrees.setSlot i _ ⟨rfl, rfl, rfl⟩
  have hage : (s.fencing i).ageOrder i = s.ageOrder i := rfl
  have hmem : ∀ e ∈ s.ageOrder i, e ∈ s.table ∧ e.slot = i ∧ e.kind = .request := fun e he => by
    obtain ⟨h1, h2⟩ := List.mem_filter.mp he
    simp only [Bool.and_eq_true, decide_eq_true_eq] at h2
    exact ⟨h1, h2⟩
  have hnd : ((s.ageOrder i).map Entry.key).Nodup :=
    List.Nodup.sublist (List.filter_sublist.map _) h.keys
  have hfen : ((s.fencing i).slot i).state = .fenced := by
    unfold State.fencing; rw [State.slot_updSlot_self]
  obtain ⟨g1, g2, g3, g4, g5⟩ := hs1.orphans (s.ageOrder i) hmem hnd hfen
  unfold State.orphanSlot
  rw [hage]
  refine ⟨g1, fun j hj => g2 j ?_, ?_, ?_, fun x hx hxi => g5 x hx fun e he hk => ?_⟩
  · unfold State.fencing; rw [State.slot_updSlot, if_neg (Ne.symm hj)]; exact h.fits j
  · rw [g3]; unfold State.fencing; rw [State.slot_updSlot_self, ← h.counts i]
    simp
  · unfold State.ageOrder
    refine List.filter_eq_nil_iff.mpr fun x hx hxx => ?_
    simp only [Bool.and_eq_true, decide_eq_true_eq] at hxx
    obtain ⟨k1, y, hy, k2⟩ := g4 x hx
    by_cases hyk : y.kind = .request
    · have hys : y.slot = i := by rw [← hxx.1]; exact congrArg EntryKey.slot k2
      exact k1 y (List.mem_filter.mpr ⟨hy, by simp [hys, hyk]⟩) k2.symm
    · have hyp : y.kind = .probe := by cases hh : y.kind <;> simp_all
      have hpr := h.inFlight y hy hyp
      have := (g5 y hy fun e he hk => by
        rw [h.agrees.unique hy (hmem e he).1 hk] at hyp
        rw [(hmem e he).2.2] at hyp; cases hyp)
      by_cases hpp : ∃ e ∈ s.ageOrder i, e.partner = some y.key
      · have hu := (this.2 hpp).2 (by rw [hpr.1]; simp)
        have := g1.unique hx hu k2.symm
        rw [this] at hxx
        exact hyk hxx.2
      · have hu := this.1 fun e he hh => hpp ⟨e, he, hh⟩
        have := g1.unique hx hu k2.symm
        rw [this] at hxx
        exact hyk hxx.2
  · obtain ⟨e1, e2, e3⟩ := hmem e he
    have := h.agrees.unique hx e1 hk
    rw [this] at hxi
    rcases hxi with hxi | hxi
    · exact hxi e2
    · rw [e3] at hxi; cases hxi

theorem State.enterFenced_table (s : State) (i : SlotIndex) :
    (s.enterFenced i).table = ((s.fencing i).orphanSlot i).table := by
  unfold State.enterFenced
  rw [State.queueAlert_table]
  split
  · rfl
  · rw [State.queueAlert_table]; rfl

theorem State.slot_enterFenced (s : State) (i j : SlotIndex) :
    (s.enterFenced i).slot j =
      if i = j then { ((s.fencing i).orphanSlot i).slot i with sinceProbe := 0 }
      else ((s.fencing i).orphanSlot i).slot j := by
  unfold State.enterFenced
  rw [State.queueAlert_slot]
  have : ∀ u : State, (u.updSlot i fun r => { r with sinceProbe := 0 }).slot j =
      if i = j then { u.slot i with sinceProbe := 0 } else u.slot j := fun u => u.slot_updSlot i j _
  split
  · exact this _
  · rw [State.queueAlert_slot]; exact this _

/-- Entry into FENCED keeps table and slots in agreement. -/
theorem State.TableConsistent.enterFenced {s : State} (h : s.TableConsistent) (i : SlotIndex) :
    (s.enterFenced i).TableConsistent := by
  obtain ⟨g1, g2, g3, g4, _⟩ := h.orphanSlot i
  have hin : (s.enterFenced i).engine.inFlight = ((s.fencing i).orphanSlot i).engine.inFlight := by
    rw [(SlotWork.enterFenced s i).engine, (SlotWork.orphanSlot (s.fencing i) i).engine]; rfl
  refine (g1.of_slots (s.enterFenced_table i) hin fun j => ?_).consistent fun j => ?_
  · rw [State.slot_enterFenced]; split
    · rename_i hj; rw [← hj]; exact ⟨rfl, rfl, rfl⟩
    · exact .refl _
  · rw [State.slot_enterFenced]; split
    · rw [g3]; exact ⟨fun _ => rfl, fun x => by cases x⟩
    · exact g2 j (Ne.symm ‹_›)

/-! ### Alerts only join the outbox -/

theorem State.outbox_queueAlert (s : State) (r : AlertRecord) :
    s.report.outbox <+: (s.queueAlert r).report.outbox := by
  unfold State.queueAlert; split
  · exact List.prefix_append _ _
  · exact List.prefix_refl _

theorem State.outbox_settleDrain (s : State) (i : SlotIndex) :
    s.report.outbox <+: (s.settleDrain i).report.outbox := by
  unfold State.settleDrain; split
  · exact State.outbox_queueAlert (s.updSlot i SlotRecord.toParked) _
  · exact List.prefix_refl _

theorem State.outbox_removeEntry (s : State) (e : Entry) :
    s.report.outbox <+: (s.removeEntry e).report.outbox :=
  State.outbox_settleDrain
    ({ s with table := s.table.filter fun x => !decide (x.key = e.key) }.updSlot e.slot
      fun r => r.dropEntry e.kind) e.slot

theorem State.outbox_releasePartner (s : State) (e : Entry) :
    s.report.outbox <+: (s.releasePartner e).report.outbox := by
  unfold State.releasePartner
  split
  · exact List.prefix_refl _
  · split
    · exact List.prefix_refl _
    · split
      · exact s.outbox_removeEntry _
      · exact List.prefix_refl _

theorem State.outbox_orphans (l : List Entry) (s : State) :
    s.report.outbox <+: (l.foldl State.orphanEntry s).report.outbox := by
  induction l generalizing s with
  | nil => exact List.prefix_refl _
  | cons a l ih =>
    exact ((s.outbox_releasePartner a).trans (State.outbox_removeEntry _ a)).trans (ih _)

/-! ### The tag of a launch (R35, R66, R145) -/

/-- Two sequence numbers of one tag are equal. -/
theorem State.tagOf_inj (s : State) {p q : BitVec 12} (h : s.tagOf p = s.tagOf q) : p = q := by
  unfold State.tagOf probeTag at h
  refine BitVec.eq_of_getLsbD_eq fun i hi => ?_
  have low : ∀ r : BitVec 12, (s.engine.marker ++ s.mgmt.chain ++ r).getLsbD i = r.getLsbD i := fun r => by
    rw [BitVec.getLsbD_append, if_pos hi]
  rw [← low p, ← low q]
  exact congrArg (fun t : BitVec (16 + 4 + 12) => t.getLsbD i) h

/-- What the search for a free sequence number finds: the numbers before it are taken, and it is free unless
the search ran out. -/
theorem State.freeSeq_spec (s : State) (i : SlotIndex) (n : Nat) (q : BitVec 12) :
    ∃ k ≤ n, s.freeSeq i n q = q + BitVec.ofNat 12 k ∧
      (∀ m < k, s.findEntry i (s.tagOf (q + BitVec.ofNat 12 m)) ≠ none) ∧
      (k < n → s.findEntry i (s.tagOf (q + BitVec.ofNat 12 k)) = none) := by
  induction n generalizing q with
  | zero => exact ⟨0, Nat.le_refl 0, by simp [State.freeSeq], by simp, by simp⟩
  | succ n ih =>
    unfold State.freeSeq
    cases hf : s.findEntry i (s.tagOf q) with
    | none => exact ⟨0, by simp, by simp, by simp, by simp [hf]⟩
    | some e =>
      obtain ⟨k, hk, he, ht, hn⟩ := ih (q + 1)
      have step : ∀ m : Nat, q + 1 + BitVec.ofNat 12 m = q + BitVec.ofNat 12 (m + 1) := fun m => by
        rw [BitVec.ofNat_add]; ac_rfl
      refine ⟨k + 1, Nat.succ_le_succ hk, ?_, ?_, ?_⟩
      · rw [if_neg (by simp), he, step]
      · intro m hm
        cases m with
        | zero => simp [hf]
        | succ m => rw [← step]; exact ht m (by omega)
      · intro h; rw [← step]; exact hn (by omega)

/-- As many sequence numbers in a row are taken as the table has entries, at the most. -/
theorem State.taken_le (s : State) (i : SlotIndex) (n : Nat) (q : BitVec 12) (hn : n ≤ 4096)
    (h : ∀ m < n, s.findEntry i (s.tagOf (q + BitVec.ofNat 12 m)) ≠ none) : n ≤ s.table.length := by
  have hsub : ((List.range n).map fun m => (⟨i, s.tagOf (q + BitVec.ofNat 12 m)⟩ : EntryKey)) ⊆
      s.table.map Entry.key := by
    intro k hk
    obtain ⟨m, hm, rfl⟩ := List.mem_map.mp hk
    obtain ⟨e, he⟩ := Option.ne_none_iff_exists'.mp (h m (List.mem_range.mp hm))
    exact (State.findEntry_some he).2 ▸ List.mem_map_of_mem (State.findEntry_some he).1
  have hnd : ((List.range n).map fun m => (⟨i, s.tagOf (q + BitVec.ofNat 12 m)⟩ : EntryKey)).Nodup := by
    refine List.Nodup.map_on (fun a ha b hb hab => ?_) List.nodup_range
    have h1 := s.tagOf_inj (congrArg EntryKey.tag hab)
    have h2 := congrArg (fun x => (x - q).toNat) h1
    rw [List.mem_range] at ha hb
    simpa [BitVec.add_comm q, BitVec.add_sub_cancel, Nat.mod_eq_of_lt (show a < 4096 by omega),
      Nat.mod_eq_of_lt (show b < 4096 by omega)] using h2
  simpa using (hnd.subperm hsub).length_le

/-- The sequence number of a launch into a table with room: the first, from the one that stands, whose tag is
no key of the slot. -/
theorem State.launchSeq_spec (s : State) (i : SlotIndex) (room : s.table.length < Config.tableCapacity) :
    ∃ k : Nat, s.launchSeq i = s.engine.seq + BitVec.ofNat 12 k ∧
      (∀ m < k, s.findEntry i (s.tagOf (s.engine.seq + BitVec.ofNat 12 m)) ≠ none) ∧
      s.findEntry i (s.launchTag i) = none := by
  obtain ⟨k, hk, he, ht, hn⟩ := s.freeSeq_spec i Config.tableCapacity s.engine.seq
  have hlt : k < Config.tableCapacity :=
    Nat.lt_of_le_of_lt (s.taken_le i k s.engine.seq (Nat.le_trans hk (by decide)) ht) room
  refine ⟨k, he, ht, ?_⟩
  show s.findEntry i (s.tagOf (s.freeSeq i Config.tableCapacity s.engine.seq)) = none
  rw [he]
  exact hn hlt

/-- The sequence number that stands, where its tag is free. -/
theorem State.launchSeq_free (s : State) (i : SlotIndex)
    (free : s.findEntry i (s.tagOf s.engine.seq) = none) : s.launchSeq i = s.engine.seq := by
  unfold State.launchSeq Config.tableCapacity State.freeSeq
  rw [free]
  rfl

end Sys2Proof.Machine
end

