-- ==== Sys2Proof/Laws/Fence.lean ====
section
/-! SUPPORT. What entry into FENCED leaves in the records of the other slots: the count of a slot whose HELD
partner entry goes, and the end of its drain (R63, R83, R95). The race of FENCE and a verdict acting as
"VERDICT set" (R138), in both orders under both gates. -/

namespace Sys2Proof.Machine

/-- A record whose drain ends when its last entry is removed. -/
abbrev SlotRecord.Drains (r : SlotRecord) : Prop :=
  r.state = .draining ∧ r.fencePending = false ∧ r.probeEntry = false

/-- From `s` to `t` REQUEST entries of slot `j` may have been removed, and nothing else happened to its
record than that asks for. -/
structure State.DropsOnly (j : SlotIndex) (s t : State) : Prop where
  empty : s.ageOrder j = [] → t.ageOrder j = [] ∧ t.slot j = s.slot j
  keeps : ¬ (s.slot j).Drains ∨ t.ageOrder j ≠ [] → ∃ n, t.slot j = { s.slot j with requestCount := n }
  ends : (s.slot j).Drains → s.ageOrder j ≠ [] → t.ageOrder j = [] →
    t.slot j = { s.slot j with requestCount := 0, state := .parked, lostTags := [] }

theorem State.DropsOnly.of_same {j : SlotIndex} {s t : State} (slot : t.slot j = s.slot j)
    (age : (t.ageOrder j).length = (s.ageOrder j).length) : s.DropsOnly j t where
  empty h := ⟨List.length_eq_zero_iff.mp (by rw [age, h]; rfl), slot⟩
  keeps _ := ⟨(s.slot j).requestCount, slot⟩
  ends _ h h' := absurd (List.length_eq_zero_iff.mp (by rw [← age, h']; rfl)) h

theorem State.DropsOnly.trans {j : SlotIndex} {s t u : State} (a : s.DropsOnly j t)
    (b : t.DropsOnly j u) : s.DropsOnly j u where
  empty h := ⟨(b.empty (a.empty h).1).1, (b.empty (a.empty h).1).2.trans (a.empty h).2⟩
  keeps h := by
    have back : u.ageOrder j ≠ [] → t.ageOrder j ≠ [] := fun hu ht => hu (b.empty ht).1
    obtain ⟨n, hn⟩ := a.keeps (h.imp_right back)
    obtain ⟨m, hm⟩ := b.keeps (h.imp_left fun hd => by rw [hn]; exact hd)
    exact ⟨m, by rw [hm, hn]⟩
  ends hd hs hu := by
    by_cases ht : t.ageOrder j = []
    · rw [(b.empty ht).2]; exact a.ends hd hs ht
    · obtain ⟨n, hn⟩ := a.keeps (Or.inr ht)
      rw [b.ends (by rw [hn]; exact hd) ht hu, hn]

/-- Changes of entries that keep slot and kind keep the length of every age order. -/
theorem State.length_ageOrder_updEntry (s : State) (k : EntryKey) (f : Entry → Entry) (j : SlotIndex)
    (slot : ∀ e, (f e).slot = e.slot) (kind : ∀ e, (f e).kind = e.kind) :
    ((s.updEntry k f).ageOrder j).length = (s.ageOrder j).length := by
  unfold State.ageOrder State.updEntry
  induction s.table with
  | nil => rfl
  | cons a l ih =>
    have same : (decide ((if a.key = k then f a else a).slot = j) &&
        decide ((if a.key = k then f a else a).kind = .request)) =
        (decide (a.slot = j) && decide (a.kind = .request)) := by
      split
      · rw [slot, kind]
      · rfl
    rw [List.map_cons, List.filter_cons, List.filter_cons, same]
    split
    · rw [List.length_cons, List.length_cons, ih]
    · exact ih

/-- The removal of an entry of another slot. -/
theorem State.DropsOnly.removeOther {s : State} {e : Entry} {j : SlotIndex} (h : e.slot ≠ j) :
    s.DropsOnly j (s.removeEntry e) := by
  refine .of_same (by rw [State.slot_removeEntry, if_neg h]) ?_
  unfold State.ageOrder
  rw [State.removeEntry_table, List.filter_filter]
  congr 1
  refine List.filter_congr fun x _ => ?_
  by_cases hx : x.slot = j
  · have : x.key ≠ e.key := fun hk => h (by rw [← hx]; exact (congrArg EntryKey.slot hk).symm)
    simp [hx, this]
  · simp [hx]

/-- The removal of a REQUEST entry of the slot itself. -/
theorem State.TableAgrees.dropsOnly {s : State} (h : s.TableAgrees) {e : Entry} (he : e ∈ s.table)
    (hk : e.kind = .request) : s.DropsOnly e.slot (s.removeEntry e) := by
  have mem : e ∈ s.ageOrder e.slot := List.mem_filter.mpr ⟨he, by simp [hk]⟩
  have nonempty : s.ageOrder e.slot ≠ [] := List.ne_nil_of_mem mem
  have counts := (h.removeEntry he).counts e.slot
  have slot := s.slot_removeEntry e e.slot
  rw [if_pos rfl, hk] at slot
  simp only [SlotRecord.dropEntry, SlotRecord.noEntry, Bool.and_eq_true, Bool.not_eq_true'] at slot
  by_cases hd : (s.slot e.slot).Drains ∧ (s.slot e.slot).requestCount - 1 = 0
  · rw [if_pos ⟨hd.1.1, ⟨decide_eq_true hd.2, hd.1.2.2⟩, hd.1.2.1⟩] at slot
    have none : (s.removeEntry e).ageOrder e.slot = [] := by
      rw [slot] at counts
      exact List.length_eq_zero_iff.mp (counts.symm.trans hd.2)
    refine ⟨fun hn => absurd hn nonempty, fun hn => absurd none (hn.resolve_left (not_not.mpr hd.1)),
      fun _ _ _ => ?_⟩
    rw [slot, SlotRecord.toParked, hd.2]
  · rw [if_neg fun hc => hd ⟨⟨hc.1, hc.2.2, hc.2.1.2⟩, of_decide_eq_true hc.2.1.1⟩] at slot
    refine ⟨fun hn => absurd hn nonempty, fun _ => ⟨_, slot⟩, fun hr _ hn => absurd ⟨hr, ?_⟩ hd⟩
    rw [slot, hn] at counts
    exact counts

theorem State.TableAgrees.dropsOnly_releasePartner {s : State} (h : s.TableAgrees) (e : Entry)
    (j : SlotIndex) : s.DropsOnly j (s.releasePartner e) := by
  unfold State.releasePartner
  split
  · exact .of_same rfl rfl
  · split
    · exact .of_same rfl rfl
    · rename_i p hf
      have hp := (State.findEntry_some hf).1
      split
      · rename_i held
        by_cases hj : p.slot = j
        · subst hj
          refine h.dropsOnly hp ?_
          cases hk : p.kind with
          | request => rfl
          | probe => rw [(h.inFlight p hp hk).1] at held; cases held
        · exact .removeOther hj
      · exact .of_same rfl (s.length_ageOrder_updEntry _ _ j (fun _ => rfl) fun _ => rfl)

theorem State.TableAgrees.dropsOnly_orphans {i j : SlotIndex} (hj : j ≠ i) (l : List Entry) {s : State}
    (h : s.TableAgrees) (hl : ∀ e ∈ l, e ∈ s.table ∧ e.slot = i) (hn : (l.map Entry.key).Nodup) :
    s.DropsOnly j (l.foldl State.orphanEntry s) := by
  induction l generalizing s with
  | nil => exact .of_same rfl rfl
  | cons a l ih =>
    obtain ⟨ha, has⟩ := hl a (by simp)
    rw [List.map_cons, List.nodup_cons] at hn
    refine ((h.dropsOnly_releasePartner a j).trans (.removeOther (by rw [has]; exact hj.symm))).trans
      (ih (h.orphanEntry ha) (fun e he => ⟨?_, (hl e (by simp [he])).2⟩) hn.2)
    refine State.mem_removeEntry.mpr ⟨(State.mem_releasePartner_of_ne fun hp => ?_).mpr
      (hl e (by simp [he])).1, fun hk => hn.1 (by rw [← hk]; exact List.mem_map_of_mem he)⟩
    exact h.partners a ha e.key hp (by rw [has]; exact (hl e (by simp [he])).2)

/-- The record of another slot after entry into FENCED. -/
theorem State.TableConsistent.enterFenced_other {s : State} (h : s.TableConsistent) {i j : SlotIndex}
    (hj : j ≠ i) :
    ((s.slot j).Drains ∧ (s.enterFenced i).ageOrder j = [] ∧
        (∃ e ∈ s.table, e.slot = j ∧ e.kind = .request ∧ e.state = .held ∧
          ∃ x ∈ s.ageOrder i, x.partner = some e.key) →
      (s.enterFenced i).slot j =
        { s.slot j with requestCount := 0, state := .parked, lostTags := [] }) ∧
    (¬ ((s.slot j).Drains ∧ (s.enterFenced i).ageOrder j = [] ∧
        ∃ e ∈ s.table, e.slot = j ∧ e.kind = .request ∧ e.state = .held ∧
          ∃ x ∈ s.ageOrder i, x.partner = some e.key) →
      (s.enterFenced i).slot j =
        { s.slot j with requestCount := ((s.enterFenced i).ageOrder j).length }) := by
  have fenced : (s.fencing i).TableAgrees := h.agrees.setSlot i _ ⟨rfl, rfl, rfl⟩
  have slot0 : (s.fencing i).slot j = s.slot j := by
    unfold State.fencing; rw [State.slot_updSlot, if_neg (Ne.symm hj)]
  have age0 : (s.fencing i).ageOrder j = s.ageOrder j := rfl
  have mem : ∀ e ∈ s.ageOrder i, e ∈ (s.fencing i).table ∧ e.slot = i := fun e he => by
    obtain ⟨h1, h2⟩ := List.mem_filter.mp he
    simp only [Bool.and_eq_true, decide_eq_true_eq] at h2
    exact ⟨h1, h2.1⟩
  have nodup : ((s.ageOrder i).map Entry.key).Nodup :=
    List.Nodup.sublist (List.filter_sublist.map _) h.keys
  have drops : (s.fencing i).DropsOnly j ((s.fencing i).orphanSlot i) :=
    fenced.dropsOnly_orphans hj (s.ageOrder i) mem nodup
  have slot1 : (s.enterFenced i).slot j = ((s.fencing i).orphanSlot i).slot j := by
    rw [State.slot_enterFenced, if_neg (Ne.symm hj)]
  have age1 : (s.enterFenced i).ageOrder j = ((s.fencing i).orphanSlot i).ageOrder j := by
    unfold State.ageOrder; rw [State.enterFenced_table]
  have counts := (h.enterFenced i).counts j
  obtain ⟨d1, d2, d3⟩ := drops
  rw [slot0, age0, ← slot1, ← age1] at *
  refine ⟨fun ⟨hd, hn, e, he, hs, hk, _⟩ => d3 hd ?_ hn, fun hno => ?_⟩
  · exact List.ne_nil_of_mem (List.mem_filter.mpr ⟨he, by simp [hs, hk]⟩)
  · rw [← counts]
    by_cases hd : ¬ (s.slot j).Drains ∨ (s.enterFenced i).ageOrder j ≠ []
    · obtain ⟨n, hn⟩ := d2 hd
      rw [hn]
    · rw [not_or, not_not, ne_eq, not_not] at hd
      cases hs : s.ageOrder j with
      | nil => rw [(d1 hs).2]
      | cons e l =>
        have he : e ∈ s.ageOrder j := by rw [hs]; simp
        obtain ⟨h1, h2⟩ := List.mem_filter.mp he
        simp only [Bool.and_eq_true, decide_eq_true_eq] at h2
        have gone : ∀ x ∈ (s.enterFenced i).table, x.slot = j → x.kind ≠ .request := fun x hx hxs hxk =>
          absurd hd.2 (List.ne_nil_of_mem (List.mem_filter.mpr ⟨hx, by simp [hxs, hxk]⟩))
        rw [State.enterFenced_table] at gone
        obtain ⟨_, _, _, _, g5⟩ := h.orphanSlot i
        have g := g5 e h1 (Or.inl (by rw [h2.1]; exact hj))
        by_cases hp : ∃ x ∈ s.ageOrder i, x.partner = some e.key
        · by_cases held : e.state = .held
          · exact absurd ⟨hd.1, hd.2, e, h1, h2.1, h2.2, held, hp⟩ hno
          · exact absurd h2.2 (gone e.unpair ((g.2 hp).2 held) h2.1)
        · exact absurd h2.2 (gone e (g.1 fun x hx hh => hp ⟨x, hx, hh⟩) h2.1)

/-! ### FENCE and a verdict acting as "VERDICT set" (R138) -/

/-- A verdict acts as "VERDICT set" on an accepting slot alone (R127, R131, R132). -/
theorem accepting_of_verdictAction {st : SlotState} {p : Policy} (h : verdictAction st p = .setVerdict) :
    st.accepting = true := by
  cases st <;> cases p <;> first | rfl | cases h

/-- The record of a slot that has entered FENCED (R139). -/
theorem State.TableConsistent.slot_enterFenced_self {s : State} (h : s.TableConsistent) (i : SlotIndex) :
    (s.enterFenced i).slot i = { s.slot i with
      state := .fenced, fencePending := false, sinceProbe := 0, requestCount := 0 } := by
  obtain ⟨_, _, g3, _⟩ := h.orphanSlot i
  rw [State.slot_enterFenced, if_pos rfl, g3]

/-- A FENCED slot has no gate effect left (R134). -/
theorem State.gateEffect_fenced {s : State} {i : SlotIndex} (h : (s.slot i).state = .fenced) :
    s.gateEffect i = s := by
  unfold State.gateEffect
  rw [if_neg (by rw [h]; simp [SlotState.accepting])]

theorem State.gateEffect_immediate {s : State} {i : SlotIndex} (h : (s.slot i).state.accepting = true)
    (g : (s.slot i).config.gate = .immediate) : s.gateEffect i = s.enterFenced i := by
  unfold State.gateEffect
  rw [if_pos (Or.inl h), g]

theorem State.gateEffect_boundary {s : State} {i : SlotIndex} (h : (s.slot i).state.accepting = true)
    (g : (s.slot i).config.gate = .boundary) :
    s.gateEffect i = s.updSlot i fun r => { r with fencePending := true } := by
  unfold State.gateEffect
  rw [if_pos (Or.inl h), g]

/-- Under gate IMMEDIATE both orders set both sources on a FENCED slot, and the one set second changes only
the source: there is one fence entry, with the alerts of the first (R138). -/
theorem State.TableConsistent.fence_and_verdict_immediate {s : State} (h : s.TableConsistent)
    {i : SlotIndex} (accepting : (s.slot i).state.accepting = true)
    (gate : (s.slot i).config.gate = .immediate) :
    let both := { s.slot i with
      manual := true, verdict := true, state := SlotState.fenced, fencePending := false, sinceProbe := 0,
      requestCount := 0 }
    (((s.setManual i).setVerdict i).slot i = both ∧
      ((s.setManual i).setVerdict i).report = (s.setManual i).report) ∧
    ((s.setVerdict i).setManual i).slot i = both ∧
      ((s.setVerdict i).setManual i).report = (s.setVerdict i).report := by
  have manual := (h.updSlot i (fun r => { r with manual := true }) (fun _ => ⟨rfl, rfl, rfl⟩)
    fun _ => rfl).slot_enterFenced_self i
  have verdict := (h.updSlot i (fun r => { r with verdict := true }) (fun _ => ⟨rfl, rfl, rfl⟩)
    fun _ => rfl).slot_enterFenced_self i
  rw [State.slot_updSlot_self] at manual verdict
  have first : s.setManual i = (s.updSlot i fun r => { r with manual := true }).enterFenced i :=
    State.gateEffect_immediate (by rwa [State.slot_updSlot_self]) (by rwa [State.slot_updSlot_self])
  have first' : s.setVerdict i = (s.updSlot i fun r => { r with verdict := true }).enterFenced i :=
    State.gateEffect_immediate (by rwa [State.slot_updSlot_self]) (by rwa [State.slot_updSlot_self])
  rw [first, first']
  unfold State.setManual State.setVerdict
  rw [State.gateEffect_fenced (by rw [State.slot_updSlot_self, manual]),
    State.gateEffect_fenced (by rw [State.slot_updSlot_self, verdict]), State.slot_updSlot_self,
    State.slot_updSlot_self, manual, verdict]
  exact ⟨⟨rfl, State.updSlot_report ..⟩, rfl, State.updSlot_report ..⟩

theorem State.setManual_boundary {s : State} {i : SlotIndex} (accepting : (s.slot i).state.accepting = true)
    (gate : (s.slot i).config.gate = .boundary) :
    s.setManual i = s.updSlot i fun r => { r with manual := true, fencePending := true } := by
  unfold State.setManual
  rw [State.gateEffect_boundary (by rwa [State.slot_updSlot_self]) (by rwa [State.slot_updSlot_self]),
    State.updSlot_updSlot]

theorem State.setVerdict_boundary {s : State} {i : SlotIndex} (accepting : (s.slot i).state.accepting = true)
    (gate : (s.slot i).config.gate = .boundary) :
    s.setVerdict i = s.updSlot i fun r => { r with verdict := true, fencePending := true } := by
  unfold State.setVerdict
  rw [State.gateEffect_boundary (by rwa [State.slot_updSlot_self]) (by rwa [State.slot_updSlot_self]),
    State.updSlot_updSlot]

/-- Under gate BOUNDARY both orders set both sources and make one fence pending (R138). -/
theorem State.fence_and_verdict_boundary {s : State} {i : SlotIndex}
    (accepting : (s.slot i).state.accepting = true) (gate : (s.slot i).config.gate = .boundary) :
    let both := s.updSlot i fun r => { r with manual := true, verdict := true, fencePending := true }
    (s.setManual i).setVerdict i = both ∧ (s.setVerdict i).setManual i = both := by
  rw [State.setManual_boundary accepting gate, State.setVerdict_boundary accepting gate,
    State.setManual_boundary (by rwa [State.slot_updSlot_self]) (by rwa [State.slot_updSlot_self]),
    State.setVerdict_boundary (by rwa [State.slot_updSlot_self]) (by rwa [State.slot_updSlot_self]),
    State.updSlot_updSlot, State.updSlot_updSlot]
  exact ⟨rfl, rfl⟩

end Sys2Proof.Machine
end

