-- ==== Sys2Proof/Laws/Folds.lean ====
section
/-! SUPPORT. Operations taken once for every slot of a list without repeats: what they leave in each slot
record, and the alerts they queue; and the sequence of the 32 turns of a boundary. -/

namespace Sys2Proof.Machine

/-- A fold that changes at each slot that slot's record alone. -/
theorem foldl_slot {f : State → SlotIndex → State} (g : SlotIndex → SlotRecord → SlotRecord)
    (hself : ∀ s i, (f s i).slot i = g i (s.slot i))
    (hother : ∀ s i j, i ≠ j → (f s i).slot j = s.slot j) :
    ∀ (l : List SlotIndex), l.Nodup → ∀ (s : State) (j : SlotIndex),
      (l.foldl f s).slot j = if j ∈ l then g j (s.slot j) else s.slot j := by
  intro l
  induction l with
  | nil => intro _ s j; simp
  | cons i l ih =>
    intro hn s j
    obtain ⟨hi, hn⟩ := List.nodup_cons.mp hn
    rw [List.foldl_cons, ih hn]
    by_cases hj : j = i
    · subst hj
      rw [if_neg hi, if_pos (by simp), hself]
    · rw [hother s i j (fun h => hj h.symm)]
      by_cases hl : j ∈ l
      · rw [if_pos hl, if_pos (by simp [hl])]
      · rw [if_neg hl, if_neg (by simp [hl, hj])]

/-- A fold that queues at most one alert for each slot, read from that slot's record, into an outbox with
room for all of them. -/
theorem foldl_alerts {f : State → SlotIndex → State} (base : Nat)
    (a : SlotIndex → SlotRecord → Option AlertRecord)
    (hother : ∀ s i j, i ≠ j → (f s i).slot j = s.slot j)
    (hnone : ∀ s i, s.mgmt.watchBase = base → a i (s.slot i) = none →
      (f s i).report = s.report ∧ (f s i).mgmt = s.mgmt)
    (hsome : ∀ s i r, s.mgmt.watchBase = base → a i (s.slot i) = some r →
      (f s i).report = (s.queueAlert r).report ∧ (f s i).mgmt = (s.queueAlert r).mgmt) :
    ∀ (l : List SlotIndex), l.Nodup → ∀ s : State, s.mgmt.watchBase = base →
      s.report.outbox.length + (l.filterMap fun i => a i (s.slot i)).length ≤ Config.outboxCapacity →
      (l.foldl f s).report = { s.report with outbox := s.report.outbox ++
        (l.filterMap fun i => a i (s.slot i)).map fun r => ⟨r, s.mgmt.chain⟩ } ∧
      (l.foldl f s).mgmt = s.mgmt := by
  intro l
  induction l with
  | nil => intro _ s _ _; simp
  | cons i l ih =>
    intro hn s hb hroom
    obtain ⟨hi, hn⟩ := List.nodup_cons.mp hn
    have hsame : (l.filterMap fun j => a j ((f s i).slot j)) = l.filterMap fun j => a j (s.slot j) := by
      apply List.filterMap_congr
      intro j hj
      rw [hother s i j (fun h => hi (h ▸ hj))]
    rw [List.foldl_cons]
    cases ha : a i (s.slot i) with
    | none =>
      obtain ⟨h1, h2⟩ := hnone s i hb ha
      rw [List.filterMap_cons_none (f := fun i => a i (s.slot i)) ha] at hroom ⊢
      have := ih hn (f s i) (by rw [h2, hb]) (by rw [hsame, h1]; exact hroom)
      rw [hsame, h1, h2] at this
      exact this
    | some r =>
      obtain ⟨h1, h2⟩ := hsome s i r hb ha
      rw [List.filterMap_cons_some (f := fun i => a i (s.slot i)) ha] at hroom ⊢
      rw [List.length_cons] at hroom
      have hq := s.queueAlert_room r (by omega)
      rw [hq] at h1 h2
      have := ih hn (f s i) (by rw [h2, hb]) (by
        rw [hsame, h1]; simp only [List.length_append, List.length_cons, List.length_nil]; omega)
      rw [hsame, h1, h2] at this
      simpa using this

/-! ### The turns of a boundary -/

theorem allSlots_nodup : allSlots.Nodup := by decide

theorem mem_allSlots (i : SlotIndex) : i ∈ allSlots := by revert i; decide

theorem mem_firstOccurrences (l : List SlotIndex) :
    ∀ (seen : List SlotIndex) (i : SlotIndex),
      i ∈ firstOccurrences seen l ↔ i ∈ l ∧ i ∉ seen := by
  induction l with
  | nil => intro seen i; simp [firstOccurrences]
  | cons x l ih =>
    intro seen i
    unfold firstOccurrences
    by_cases hx : x ∈ seen
    · rw [if_pos hx, ih]
      constructor
      · rintro ⟨h1, h2⟩; exact ⟨by simp [h1], h2⟩
      · rintro ⟨h1, h2⟩
        refine ⟨?_, h2⟩
        rcases List.mem_cons.mp h1 with rfl | h
        · exact absurd hx h2
        · exact h
    · rw [if_neg hx, List.mem_cons, List.mem_cons, ih, List.mem_cons]
      constructor
      · rintro (rfl | ⟨h1, h2⟩)
        · exact ⟨Or.inl rfl, hx⟩
        · exact ⟨Or.inr h1, fun h => h2 (Or.inr h)⟩
      · rintro ⟨h1, h2⟩
        by_cases hi : i = x
        · exact Or.inl hi
        · exact Or.inr ⟨h1.resolve_left hi, fun h => h.elim hi h2⟩

theorem firstOccurrences_nodup (l : List SlotIndex) :
    ∀ seen : List SlotIndex, (firstOccurrences seen l).Nodup := by
  induction l with
  | nil => intro seen; simp [firstOccurrences]
  | cons x l ih =>
    intro seen
    unfold firstOccurrences
    split
    · exact ih seen
    · rw [List.nodup_cons, mem_firstOccurrences]
      exact ⟨fun h => h.2 (by simp), ih _⟩

/-- Every slot takes one turn (R109). -/
theorem turnSequence_nodup (turns : List SlotIndex) : (turnSequence turns).Nodup :=
  firstOccurrences_nodup _ _

/-- Every slot takes its turn (R109). -/
theorem mem_turnSequence (turns : List SlotIndex) (i : SlotIndex) : i ∈ turnSequence turns := by
  rw [turnSequence, mem_firstOccurrences]
  exact ⟨List.mem_append_right _ (mem_allSlots i), by simp⟩

/-- The turns of a boundary are those of the 32 slots, one each (R109). -/
theorem turnSequence_perm (turns : List SlotIndex) :
    (turnSequence turns).Perm (List.finRange 32) :=
  (List.perm_ext_iff_of_nodup (turnSequence_nodup turns) allSlots_nodup).2 fun i =>
    ⟨fun _ => mem_allSlots i, fun _ => mem_turnSequence turns i⟩

theorem firstOccurrences_prefix (l m : List SlotIndex) :
    ∀ seen : List SlotIndex, l.Nodup → (∀ i ∈ l, i ∉ seen) → l <+: firstOccurrences seen (l ++ m) := by
  induction l with
  | nil => intro _ _ _; exact List.nil_prefix
  | cons x l ih =>
    intro seen hn hd
    obtain ⟨hx, hn⟩ := List.nodup_cons.mp hn
    rw [List.cons_append, firstOccurrences, if_neg (hd x (by simp))]
    refine List.cons_prefix_cons.mpr ⟨rfl, ih _ hn fun i hi h => ?_⟩
    rcases List.mem_cons.mp h with rfl | h
    · exact hx hi
    · exact hd i (by simp [hi]) h

/-- The slots named take the first turns, in the order named (log entry 4). -/
theorem turnSequence_prefix (turns : List SlotIndex) (h : turns.Nodup) : turns <+: turnSequence turns :=
  firstOccurrences_prefix turns allSlots [] h (by simp)

end Sys2Proof.Machine
end

