-- ==== Sys2Proof/Laws/Invariants.lean ====
section
/-! SUPPORT. The agreement of table and slots (`State.TableConsistent`) through the operations that verdicts,
probes, admission, matching, timed events and boundaries are made of. -/

namespace Sys2Proof.Machine

/-! ### Verdicts -/

/-- A record whose fences, flags and counts change, not its entries, twin or state. -/
theorem State.TableConsistent.setSlotSame {s : State} (h : s.TableConsistent) (i : SlotIndex)
    (r : SlotRecord) (same : (s.slot i).SameEntries r) (state : r.state = (s.slot i).state) :
    (s.setSlot i r).TableConsistent :=
  h.setSlot i r same ((h.fits i).same same state)

/-- A record of a watched slot that is not made FENCED. -/
theorem State.TableConsistent.setSlotAccepting {s : State} (h : s.TableConsistent) (i : SlotIndex)
    (r : SlotRecord) (same : (s.slot i).SameEntries r) (watched : r.state.unwatched = false)
    (fenced : r.state ≠ .fenced) : (s.setSlot i r).TableConsistent :=
  h.setSlot i r same (.accepting watched fenced)

theorem State.TableConsistent.changeState {s : State} (h : s.TableConsistent) (i : SlotIndex)
    (new : SlotState) (cause : SlotCause) (watched : new.unwatched = false) (fenced : new ≠ .fenced) :
    (s.changeState i new cause).TableConsistent :=
  (h.setSlotAccepting i { s.slot i with state := new } ⟨rfl, rfl, rfl⟩ watched fenced).queueAlert _

theorem State.TableConsistent.enterProbation {s : State} (h : s.TableConsistent) (i : SlotIndex)
    (cause : SlotCause) : (s.enterProbation i cause).TableConsistent :=
  (h.setSlotAccepting i (s.slot i).toProbation ⟨rfl, rfl, rfl⟩ rfl (by simp [SlotRecord.toProbation])).queueAlert _

theorem State.TableConsistent.gateEffect {s : State} (h : s.TableConsistent) (i : SlotIndex) :
    (s.gateEffect i).TableConsistent := by
  unfold State.gateEffect
  split
  · split
    · exact h.enterFenced i
    · exact h.updSlot i _ (fun _ => ⟨rfl, rfl, rfl⟩) (fun _ => rfl)
  · exact h

theorem State.TableConsistent.setManual {s : State} (h : s.TableConsistent) (i : SlotIndex) :
    (s.setManual i).TableConsistent := by
  refine State.TableConsistent.gateEffect ?_ i
  exact h.updSlot i _ (fun _ => ⟨rfl, rfl, rfl⟩) (fun _ => rfl)

theorem State.TableConsistent.setVerdict {s : State} (h : s.TableConsistent) (i : SlotIndex) :
    (s.setVerdict i).TableConsistent := by
  refine State.TableConsistent.gateEffect ?_ i
  exact h.updSlot i _ (fun _ => ⟨rfl, rfl, rfl⟩) (fun _ => rfl)

theorem State.TableConsistent.submitVerdict {s : State} (h : s.TableConsistent) (i : SlotIndex)
    (k : VerdictKind) (p : Policy) (st : SlotState) (n : Nat) (q : Option Nat) (t : Option Tag) :
    (s.submitVerdict i k p st n q t).TableConsistent := by
  unfold State.submitVerdict
  simp only
  split
  · refine State.TableConsistent.queueAlert ?_ _
    exact h.setSlotSame i _ ⟨rfl, rfl, rfl⟩ rfl
  · exact h.setSlotSame i _ ⟨rfl, rfl, rfl⟩ rfl

theorem State.TableConsistent.applyVerdict {s : State} (h : s.TableConsistent) (i : SlotIndex)
    (a : VerdictAction) : (s.applyVerdict i a).TableConsistent := by
  unfold State.applyVerdict
  split
  · exact h
  · exact (h.updSlot i (fun r => { r with cleanRun := 0 }) (fun _ => ⟨rfl, rfl, rfl⟩)
      (fun _ => rfl)).changeState i .suspect .verdict rfl (by simp)
  · exact h.setVerdict i

theorem State.TableConsistent.raiseVerdict {s : State} (h : s.TableConsistent) (i : SlotIndex)
    (k : VerdictKind) (n : Nat) (q : Option Nat) (t : Option Tag) :
    (s.raiseVerdict i k n q t).TableConsistent := by
  unfold State.raiseVerdict
  simp only
  split
  · exact h
  · refine State.TableConsistent.applyVerdict (State.TableConsistent.submitVerdict ?_ _ _ _ _ _ _ _) _ _
    exact (h.updSlot i (fun r => r.markVerdict k _) (fun _ => ⟨rfl, rfl, rfl⟩) (fun _ => rfl)).congr
      rfl rfl (fun _ => rfl)

/-! ### Probes -/

/-- No PROBE entry stands in the table. -/
theorem State.TableConsistent.no_probe {s : State} (h : s.TableConsistent) (hi : s.engine.inFlight = none) :
    ∀ e ∈ s.table, e.kind ≠ .probe := fun e he hk => by
  obtain ⟨_, _, _, p, hp, _⟩ := h.inFlight e he hk
  rw [hi] at hp; cases hp

/-- The engine may become IDLE, or change otherwise, where the table holds no PROBE entry. -/
theorem State.TableConsistent.setEngine {s : State} (h : s.TableConsistent) (e : ProbeEngine)
    (he : e.inFlight = s.engine.inFlight ∨ ∀ e ∈ s.table, e.kind ≠ .probe) :
    ({ s with engine := e } : State).TableConsistent where
  keys := h.keys
  counts := h.counts
  probes := h.probes
  inFlight x hx hk := by
    rcases he with he | he
    · show _ ∧ _ ∧ _ ∧ ∃ p, e.inFlight = some p ∧ _
      rw [he]; exact h.inFlight x hx hk
    · exact absurd hk (he x hx)
  partners := h.partners
  idle := h.idle
  unwatched := h.unwatched
  twins := h.twins

theorem State.TableConsistent.closeProbe {s : State} (h : s.TableConsistent) (p : InFlight)
    (hp : s.engine.inFlight = some p) (o : ProbeOutcome) (x : Option ProbeAnswer) :
    (s.closeProbe p o x).TableConsistent := by
  unfold State.closeProbe
  simp only
  have h1 := h.setEngine { s.engine with
    pendingFrame := none, last := ⟨some ⟨p.addr, p.tag, p.origin⟩, o, x, true⟩ } (Or.inl rfl)
  have h2 := h1.updSlot p.slot (fun r => { r with lastProbe := o }) (fun _ => ⟨rfl, rfl, rfl⟩)
    (fun _ => rfl)
  generalize hu : State.updSlot _ p.slot _ = u at h2 ⊢
  have hin : u.engine.inFlight = some p := by rw [← hu]; exact hp
  split
  · rename_i hf
    refine h2.setEngine _ (Or.inr fun e he hk => ?_)
    obtain ⟨_, _, _, q, hq, hkey⟩ := h2.inFlight e he hk
    rw [hin] at hq; cases hq
    exact State.findEntry_none hf e he hkey
  · rename_i e hf
    obtain ⟨he, hkey⟩ := State.findEntry_some hf
    refine (h2.removeEntry he).setEngine _ (Or.inr fun y hy hk => ?_)
    obtain ⟨hy1, hy2⟩ := State.mem_removeEntry.mp hy
    obtain ⟨_, _, _, q, hq, hyk⟩ := h2.inFlight y hy1 hk
    rw [hin] at hq; cases hq
    exact hy2 (hyk.trans hkey.symm)

theorem State.TableConsistent.probeOutcome {s : State} (h : s.TableConsistent) (p : InFlight)
    (o : ProbeOutcome) : (s.probeOutcome p o).TableConsistent := by
  unfold State.probeOutcome
  split
  · split
    · exact h.updSlot p.slot _ (fun _ => ⟨rfl, rfl, rfl⟩) (fun _ => rfl)
    · exact h
  · exact h.raiseVerdict _ _ _ _ _
  · exact h.raiseVerdict _ _ _ _ _
  · exact h
  · exact h

theorem State.TableConsistent.endProbe {s : State} (h : s.TableConsistent) (p : InFlight)
    (hp : s.engine.inFlight = some p) (o : ProbeOutcome) (x : Option ProbeAnswer) :
    (s.endProbe p o x).TableConsistent :=
  (h.closeProbe p hp o x).probeOutcome p o

theorem State.TableConsistent.cancelProbe {s : State} (h : s.TableConsistent) :
    s.cancelProbe.TableConsistent := by
  unfold State.cancelProbe
  split
  · exact h
  · exact h.endProbe _ ‹_› _ _

theorem State.endProbe_inFlight (s : State) (p : InFlight) (o : ProbeOutcome) (x : Option ProbeAnswer) :
    (s.endProbe p o x).engine.inFlight = none := by
  unfold State.endProbe
  rw [(SlotWork.probeOutcome _ p o).engine]; rfl

theorem State.cancelProbe_inFlight (s : State) : s.cancelProbe.engine.inFlight = none := by
  unfold State.cancelProbe
  split
  · assumption
  · exact State.endProbe_inFlight _ _ _ _

/-- An entry whose key is free joins the table (R35): a REQUEST entry of a slot that may hold one, or the
PROBE entry of the probe in flight, the first. -/
theorem State.TableAgrees.addEntry {s : State} (h : s.TableAgrees) (e : Entry)
    (free : ∀ x ∈ s.table, x.key ≠ e.key)
    (probe : e.kind = .probe → (∀ x ∈ s.table, x.kind ≠ .probe) ∧ e.state = .opened ∧ e.partner = none ∧
      e.pairWindow = none ∧ ∃ p, s.engine.inFlight = some p ∧ e.key = ⟨p.slot, p.tag⟩)
    (partner : ∀ k, e.partner = some k → k.slot ≠ e.slot) : (s.addEntry e).TableAgrees := by
  constructor
  · show ((s.table ++ [e]).map Entry.key).Nodup
    rw [List.map_append, List.nodup_append]
    refine ⟨h.keys, by simp, ?_⟩
    intro a ha b hb
    obtain ⟨x, hx, rfl⟩ := List.mem_map.mp ha
    simp only [List.map_cons, List.map_nil, List.mem_singleton] at hb
    rw [hb]; exact free x hx
  · intro i
    have hage : (s.addEntry e).ageOrder i = s.ageOrder i ++
        (if e.slot = i ∧ e.kind = .request then [e] else []) := by
      unfold State.ageOrder
      rw [State.addEntry_table, List.filter_append]
      congr 1
      by_cases hc : e.slot = i ∧ e.kind = .request <;> simp_all
    rw [hage]
    unfold State.addEntry
    rw [State.slot_updSlot, List.length_append]
    by_cases hi : e.slot = i
    · subst hi
      rw [if_pos rfl]
      show ((s.slot e.slot).addEntry e.kind).requestCount = _
      cases hk : e.kind <;> simp [SlotRecord.addEntry, h.counts e.slot]
    · simp only [hi, if_false, false_and, List.length_nil, Nat.add_zero]
      exact h.counts i
  · intro i
    unfold State.addEntry
    rw [State.slot_updSlot]
    show _ ↔ ∃ x ∈ s.table ++ [e], x.slot = i ∧ x.kind = .probe
    have hold := h.probes i
    have hsplit : (∃ x ∈ s.table ++ [e], x.slot = i ∧ x.kind = .probe) ↔
        (∃ x ∈ s.table, x.slot = i ∧ x.kind = .probe) ∨ (e.slot = i ∧ e.kind = .probe) := by
      simp only [List.mem_append, List.mem_singleton, or_and_right, exists_or]
      simp
    rw [hsplit, ← hold]
    by_cases hi : e.slot = i
    · subst hi
      rw [if_pos rfl]
      show ((s.slot e.slot).addEntry e.kind).probeEntry = true ↔ _
      cases hk : e.kind <;> simp [SlotRecord.addEntry]
    · simp only [hi, if_false, false_and, or_false]; rfl
  · intro x hx hk
    show _ ∧ _ ∧ _ ∧ ∃ p, s.engine.inFlight = some p ∧ _
    rcases List.mem_append.mp hx with hx | hx
    · exact h.inFlight x hx hk
    · obtain rfl := List.mem_singleton.mp hx
      obtain ⟨_, h1, h2, h3, h4⟩ := probe hk
      exact ⟨h1, h2, h3, h4⟩
  · intro x hx
    rcases List.mem_append.mp hx with hx | hx
    · exact h.partners x hx
    · obtain rfl := List.mem_singleton.mp hx
      exact partner
  · intro i
    unfold State.addEntry
    rw [State.slot_updSlot]
    split
    · subst_vars
      show ((s.slot e.slot).addEntry e.kind).config.twin ≠ _
      have : ((s.slot e.slot).addEntry e.kind).config = (s.slot e.slot).config := by cases e.kind <;> rfl
      rw [this]; exact h.twins e.slot
    · exact h.twins i

/-- A launch in an IDLE engine, to a slot that may be probed, into a table with room. -/
theorem State.TableConsistent.launch {s : State} (h : s.TableConsistent) (i : SlotIndex) (o : ProbeOrigin)
    (idle : s.engine.inFlight = none) (watched : (s.slot i).state.unwatched = false)
    (room : s.table.length < Config.tableCapacity) : (s.launch i o).TableConsistent := by
  have hno := h.no_probe idle
  obtain ⟨_, _, _, free⟩ := s.launchSeq_spec i room
  have h1 : ({ s with engine := { s.engine with
      seq := s.launchSeq i + 1
      inFlight := some ⟨i, s.slotAddr i, s.launchTag i, o, s.time.tick⟩
      requests := s.engine.requests.set i none
      pointer := i
      pendingFrame := some (mkFrame 1 s.engine.cls (BitVec.ofNat 8 (s.slotAddr i)) (s.launchTag i)
        []) } } : State).TableConsistent := h.setEngine _ (Or.inr hno)
  have h2 := h1.agrees.addEntry (probeEntry s i (s.launchTag i))
    (fun x hx => State.findEntry_none free x hx)
    (fun _ => ⟨hno, rfl, rfl, rfl, _, rfl, rfl⟩) (fun k hk => by cases hk)
  refine State.TableAgrees.consistent (s := s.launch i o) ⟨h2.keys, h2.counts, h2.probes, h2.inFlight,
    h2.partners, h2.twins⟩ fun j => ?_
  have hslot : (s.launch i o).slot j = if i = j then { s.slot i with probeEntry := true } else s.slot j :=
    s.slot_updSlot i j fun r => r.addEntry .probe
  rw [hslot]; split
  · refine ⟨fun hx => ?_, fun hx => ?_⟩
    · rcases hx with hx | hx
      · exact absurd (watched.symm.trans hx) (by simp)
      · exact h.idle i (Or.inr hx)
    · exact absurd (watched.symm.trans hx) (by simp)
  · exact h.fits j

theorem State.TableConsistent.setRequest {s : State} (h : s.TableConsistent) (i : SlotIndex)
    (o : Option ProbeOrigin) : (s.setRequest i o).TableConsistent := h.setEngine _ (Or.inl rfl)

theorem State.TableConsistent.joinRequest {s : State} (h : s.TableConsistent) (i : SlotIndex)
    (o : ProbeOrigin) : (s.joinRequest i o).TableConsistent := by
  unfold State.joinRequest; split
  · exact h.setRequest i _
  · exact h

theorem SlotRecord.eligible_watched {r : SlotRecord} {o : ProbeOrigin} (h : r.eligible o = true) :
    r.state.unwatched = false := by
  revert h
  unfold SlotRecord.eligible
  cases o <;> cases r.state <;> simp [SlotState.unwatched, SlotState.watched, SlotState.accepting]

theorem State.TableConsistent.serviceScan (l : List SlotIndex) {s : State} (h : s.TableConsistent)
    (idle : s.engine.inFlight = none) (room : s.table.length < Config.tableCapacity) :
    (s.serviceScan l).TableConsistent := by
  induction l generalizing s with
  | nil => exact h
  | cons i l ih =>
    unfold State.serviceScan
    split
    · exact ih h idle room
    · split
      · exact h.launch i _ idle (SlotRecord.eligible_watched ‹_›) room
      · exact ih (h.setRequest i none) idle room

theorem State.TableConsistent.probeAnswer {s : State} (h : s.TableConsistent) (i : SlotIndex) (t : Tag)
    (d : Digest) : (s.probeAnswer i t d).TableConsistent := by
  unfold State.probeAnswer
  simp only
  split
  · exact h.setEngine _ (Or.inl rfl)
  · split
    · exact h.endProbe _ ‹_› _ _
    · exact h.setEngine _ (Or.inl rfl)

/-! ### Window closes and boundaries -/

theorem State.TableConsistent.raiseFound {s : State} (h : s.TableConsistent) (i : SlotIndex)
    (k : VerdictKind) (n : Option Nat) : (s.raiseFound i k n).TableConsistent := by
  unfold State.raiseFound; split
  · exact h
  · exact h.raiseVerdict _ _ _ _ _

theorem State.TableConsistent.raiseStall {s : State} (h : s.TableConsistent) (i : SlotIndex)
    (n : Option (Nat × Tag)) : (s.raiseStall i n).TableConsistent := by
  unfold State.raiseStall; split
  · exact h
  · exact h.raiseVerdict _ _ _ _ _

theorem State.TableConsistent.closeStep1 {s : State} (h : s.TableConsistent) (i : SlotIndex)
    (start : Tick) : (s.closeStep1 i start).TableConsistent := by
  unfold State.closeStep1
  refine State.TableConsistent.updSlot ?_ i _ (fun _ => ⟨rfl, rfl, rfl⟩) (fun _ => rfl)
  split
  · unfold State.windowVerdicts
    exact (((h.raiseStall i _).raiseFound i _ _).raiseFound i _ _).raiseFound i _ _
  · exact h

theorem State.TableConsistent.closeStep3 {s : State} (h : s.TableConsistent) (i : SlotIndex) :
    (s.closeStep3 i).TableConsistent := by
  unfold State.closeStep3
  simp only
  split
  · exact h
  · split
    · refine State.TableConsistent.changeState ?_ i .live _ rfl (by simp)
      exact h.updSlot i _ (fun _ => ⟨rfl, rfl, rfl⟩) (fun _ => rfl)
    · split
      · refine State.TableConsistent.changeState ?_ i .live _ rfl (by simp)
        exact h.updSlot i _ (fun _ => ⟨rfl, rfl, rfl⟩) (fun _ => rfl)
      · exact h

theorem State.TableConsistent.closeStep4 {s : State} (h : s.TableConsistent) (i : SlotIndex) :
    (s.closeStep4 i).TableConsistent := by
  unfold State.closeStep4; split
  · exact h.enterFenced i
  · exact h

theorem State.TableConsistent.closeStep5 {s : State} (h : s.TableConsistent) (i : SlotIndex) :
    (s.closeStep5 i).TableConsistent := by
  unfold State.closeStep5; simp only; split
  · exact h.enterProbation i _
  · exact h

theorem State.TableConsistent.quietRequest {s : State} (h : s.TableConsistent) (i : SlotIndex) :
    (s.quietRequest i).TableConsistent := by
  unfold State.quietRequest; split
  · exact (h.joinRequest i _).updSlot i _ (fun _ => ⟨rfl, rfl, rfl⟩) (fun _ => rfl)
  · exact h

theorem State.TableConsistent.recoveryRequest {s : State} (h : s.TableConsistent) (i : SlotIndex) :
    (s.recoveryRequest i).TableConsistent := by
  unfold State.recoveryRequest; split
  · exact (h.joinRequest i _).updSlot i _ (fun _ => ⟨rfl, rfl, rfl⟩) (fun _ => rfl)
  · exact h

theorem State.TableConsistent.closeTail {s : State} (h : s.TableConsistent) (i : SlotIndex) :
    (s.closeTail i).TableConsistent :=
  h.updSlot i (fun r => (r.paceDown (s.policySet i).quietGap).rollover) (fun _ => ⟨rfl, rfl, rfl⟩)
    (fun _ => rfl)

theorem State.TableConsistent.windowClose {s : State} (h : s.TableConsistent) (i : SlotIndex)
    (start : Tick) : (s.windowClose i start).TableConsistent := by
  unfold State.windowClose State.closeStep7
  simp only
  refine (State.TableConsistent.quietRequest ?_ i).recoveryRequest i |>.closeTail i
  refine State.TableConsistent.updSlot ?_ i _ (fun _ => ⟨rfl, rfl, rfl⟩) (fun _ => rfl)
  refine State.TableConsistent.updSlot ?_ i _ (fun r => ?_) (fun r => ?_)
  · refine ((State.TableConsistent.closeStep3 ?_ i).closeStep4 i).closeStep5 i
    exact (h.closeStep1 i start).updSlot i SlotRecord.closeStep2 (fun _ => ⟨rfl, rfl, rfl⟩) (fun _ => rfl)
  · unfold SlotRecord.closeStep6; split <;> exact ⟨rfl, rfl, rfl⟩
  · unfold SlotRecord.closeStep6; split <;> rfl

theorem State.TableConsistent.slotTurn {s : State} (h : s.TableConsistent) (start : Tick)
    (i : SlotIndex) : (s.slotTurn start i).TableConsistent := by
  unfold State.slotTurn
  split
  · exact h.windowClose i start
  · split
    · exact h.closeTail i
    · exact h

theorem State.TableConsistent.foldl {α : Type} (f : State → α → State)
    (hf : ∀ s a, State.TableConsistent s → (f s a).TableConsistent) (l : List α) {s : State}
    (h : s.TableConsistent) : (l.foldl f s).TableConsistent := by
  induction l generalizing s with
  | nil => exact h
  | cons a l ih => exact ih (hf s a h)

theorem State.TableConsistent.boundaryCloses {s : State} (h : s.TableConsistent)
    (turns : List SlotIndex) : (s.boundaryCloses turns).TableConsistent :=
  State.TableConsistent.foldl _ (fun _ i hs => hs.slotTurn _ i) _ (h.congr rfl rfl fun _ => rfl)

theorem State.TableConsistent.censusInstant {s : State} (h : s.TableConsistent) :
    s.censusInstant.TableConsistent := by
  unfold State.censusInstant
  split
  · unfold State.censusAlert; split
    · exact (h.queueAlert _).congr rfl rfl fun _ => rfl
    · exact h.congr rfl rfl fun _ => rfl
  · exact h.congr rfl rfl fun _ => rfl

theorem State.TableConsistent.boundaryCensus {s : State} (h : s.TableConsistent) (due : Bool) :
    (s.boundaryCensus due).TableConsistent := by
  unfold State.boundaryCensus; split
  · exact h.censusInstant
  · exact h

theorem State.TableConsistent.boundarySnapshot {s : State} (h : s.TableConsistent) (due : Bool) :
    (s.boundarySnapshot due).TableConsistent := by
  unfold State.boundarySnapshot; split
  · unfold State.censusSnapshot; split
    · exact h.congr rfl rfl fun _ => rfl
    · exact h
  · exact h

theorem State.TableConsistent.boundary {s : State} (h : s.TableConsistent) (turns : List SlotIndex) :
    (s.boundary turns).TableConsistent :=
  ((h.boundaryCloses turns).boundaryCensus _).boundarySnapshot _

theorem State.TableConsistent.markCommit {s : State} (h : s.TableConsistent) :
    s.markCommit.TableConsistent := by
  unfold State.markCommit; split
  · exact h.congr rfl rfl fun _ => rfl
  · exact h

theorem State.TableConsistent.markSnapshot {s : State} (h : s.TableConsistent) :
    s.markSnapshot.TableConsistent := by
  unfold State.markSnapshot; split
  · exact h.congr rfl rfl fun _ => rfl
  · exact h

theorem State.TableConsistent.markEvent {s : State} (h : s.TableConsistent)
    (orders : EdgeOrders) : (s.markEvent orders).TableConsistent := by
  unfold State.markEvent
  simp only
  split
  · have h1 := ((h.boundaryCloses orders.turns).boundaryCensus s.time.censusDue).markCommit
    split
    · exact h1.markSnapshot.boundarySnapshot _
    · exact (h1.boundarySnapshot _).markSnapshot
  · exact h.markCommit.markSnapshot

theorem State.TableConsistent.takeMark {s : State} (h : s.TableConsistent) (level : Bool)
    (orders : EdgeOrders) : (s.takeMark level orders).TableConsistent := by
  have sampled : ∀ b, (s.sampleMark b).TableConsistent := fun _ => h.congr rfl rfl fun _ => rfl
  unfold State.takeMark
  split
  · exact (sampled true).markEvent orders
  · exact sampled level

/-! ### Admission -/

/-- A REQUEST entry created in a slot that may hold one. -/
theorem State.TableConsistent.createEntry {s : State} (h : s.TableConsistent) (i : SlotIndex) (f : Frame)
    (redirected : Bool) (accepting : (s.slot i).state.accepting = true)
    (free : s.findEntry i f.tag = none) : (s.createEntry i f redirected).TableConsistent := by
  refine State.TableConsistent.credit ?_ i .arrivals
  refine (h.agrees.addEntry (requestEntry s i f redirected)
    (fun x hx => State.findEntry_none free x hx) (fun hk => by cases hk)
    (fun k hk => by cases hk)).consistent fun j => ?_
  have hslot : (s.addEntry (requestEntry s i f redirected)).slot j =
      if i = j then { s.slot i with requestCount := (s.slot i).requestCount + 1 } else s.slot j :=
    s.slot_updSlot i j fun r => r.addEntry .request
  rw [hslot]; split
  · refine .accepting ?_ ?_ <;> revert accepting <;>
      cases hst : (s.slot i).state <;> simp [SlotState.unwatched, SlotState.watched, SlotState.accepting]
  · exact h.fits j

theorem State.TableConsistent.linkTwin {s : State} (h : s.TableConsistent) (i : SlotIndex) (f : Frame)
    (request : ∀ e ∈ s.table, e.key = ⟨i, f.tag⟩ → e.kind = .request) :
    (s.linkTwin i f).TableConsistent := by
  unfold State.linkTwin
  split
  · exact h
  · rename_i j hj
    have hij : j ≠ i := fun hh => h.twins i (by rw [hj, hh])
    split
    · exact h
    · rename_i c hf
      split
      · rename_i hc
        obtain ⟨hcm, hck⟩ := State.findEntry_some hf
        have hkind : c.kind = .request := by
          unfold Entry.linkable at hc
          simp only [Bool.and_eq_true, decide_eq_true_eq] at hc
          exact hc.1.1.1.1
        have hslot : ∀ e : Entry, ∀ a : SlotIndex, e.key = ⟨a, f.tag⟩ → e.slot = a := fun e a hk =>
          congrArg EntryKey.slot hk
        have h1 := h.agrees.updEntry ⟨i, f.tag⟩
          (fun e => { e with partner := some ⟨j, f.tag⟩, pairWindow := some (s.profile f.cls).twinWindow })
          (fun _ => rfl) (fun _ => rfl) (fun _ => rfl)
          (fun e he hk hp => by rw [request e he hk] at hp; cases hp)
          (fun e _ hk q hq => by
            rw [hslot e i hk]; obtain rfl := Option.some.inj hq; exact hij)
        have h2 := h1.updEntry ⟨j, f.tag⟩
          (fun e => { e with partner := some ⟨i, f.tag⟩, pairWindow := some (s.profile f.cls).twinWindow })
          (fun _ => rfl) (fun _ => rfl) (fun _ => rfl)
          (fun e he hk hp => by
            exfalso
            obtain ⟨y, hy, rfl⟩ := List.mem_map.mp he
            split at hk
            · rename_i hyk
              have a := hslot _ j hk
              have b := hslot _ i hyk
              exact hij (a.symm.trans b)
            · rename_i hyk
              rw [if_neg hyk] at hp
              rw [h.agrees.unique hy hcm (hk.trans hck.symm), hkind] at hp
              cases hp)
          (fun e _ hk q hq => by
            rw [hslot e j hk]; obtain rfl := Option.some.inj hq; exact Ne.symm hij)
        exact h2.consistent fun k => h.fits k
      · exact h

theorem State.TableConsistent.countRetry {s : State} (h : s.TableConsistent) (i : SlotIndex) (t : Tag) :
    (s.countRetry i t).TableConsistent :=
  (h.agrees.updEntry ⟨i, t⟩ (fun e => { e with retries := e.retries + 1 }) (fun _ => rfl) (fun _ => rfl)
    (fun _ => rfl) (fun e he _ hk => ⟨(h.inFlight e he hk).1, (h.inFlight e he hk).2.1,
      (h.inFlight e he hk).2.2.1⟩) (fun e he _ => h.partners e he)).consistent fun k => h.fits k

theorem State.TableConsistent.placeBounce {s : State} (h : s.TableConsistent) (i : SlotIndex) (f : Frame)
    (r : BounceReason) (full : Bool) : (s.placeBounce i f r full).TableConsistent := by
  unfold State.placeBounce
  have h1 : (State.credit { s with report := { s.report with
      bounceQueue := s.report.bounceQueue ++ [s.bounceFrame f r] } } i .bounces).TableConsistent := by
    refine State.TableConsistent.credit ?_ i .bounces
    exact h.congr rfl rfl fun _ => rfl
  simp only
  split
  · exact h1.congr rfl rfl fun _ => rfl
  · exact h1

theorem State.admission_create {s : State} {i : SlotIndex} {f : Frame} (h : s.admission i f = .create) :
    (s.slot i).state.accepting = true ∧ s.findEntry i f.tag = none := by
  unfold State.admission at h
  simp only at h
  split at h
  · split at h <;> cases h
  · split at h
    · cases h
    · split at h
      · unfold State.redirection at h
        split at h
        · cases h
        · split at h
          · cases h
          · split at h
            · split at h
              · split at h <;> cases h
              · cases h
            · split at h
              · cases h
              · split at h <;> cases h
      · rename_i ha
        refine ⟨by simpa using ha, ?_⟩
        unfold State.acceptance at h
        split at h
        · cases h
        · split at h
          · split at h
            · split at h <;> cases h
            · cases h
          · assumption

theorem State.admission_redirectCreate {s : State} {i j : SlotIndex} {f : Frame}
    (h : s.admission i f = .redirectCreate j) :
    (s.slot j).state.accepting = true ∧ s.findEntry j f.tag = none := by
  unfold State.admission at h
  simp only at h
  split at h
  · split at h <;> cases h
  · split at h
    · cases h
    · split at h
      · unfold State.redirection at h
        split at h
        · cases h
        · split at h
          · cases h
          · rename_i ha
            split at h
            · split at h
              · split at h <;> cases h
              · cases h
            · rename_i hf
              split at h
              · cases h
              · split at h
                · obtain rfl := Admission.redirectCreate.inj h
                  exact ⟨by simpa using ha, hf⟩
                · cases h
      · unfold State.acceptance at h
        split at h
        · cases h
        · split at h
          · split at h
            · split at h <;> cases h
            · cases h
          · split at h
            · cases h
            · split at h <;> cases h

theorem State.TableConsistent.carryAdmission {s : State} (h : s.TableConsistent) (i : SlotIndex)
    (f : Frame) : (s.carryAdmission i f).TableConsistent := by
  have h0 : s.clearUpStage.TableConsistent := h.congr rfl rfl fun _ => rfl
  have fwd : ∀ {u : State}, u.TableConsistent → ∀ g, (u.forwardDown g).TableConsistent :=
    fun hu g => hu.congr rfl rfl fun _ => rfl
  unfold State.carryAdmission
  split
  · exact fwd h0 _
  · exact fwd (h0.countRetry _ _) _
  · rename_i ha
    obtain ⟨a1, a2⟩ := State.admission_create ha
    refine fwd ((h0.createEntry i f false a1 a2).linkTwin i f fun e he hk => ?_) _
    rcases List.mem_append.mp (show e ∈ s.table ++ [requestEntry s.clearUpStage i f false] from he) with he | he
    · exact absurd hk (State.findEntry_none a2 e he)
    · obtain rfl := List.mem_singleton.mp he; rfl
  · exact fwd ((h0.countRetry _ _).credit _ _) _
  · exact fwd (h0.credit _ _) _
  · rename_i ha
    obtain ⟨a1, a2⟩ := State.admission_redirectCreate ha
    exact fwd ((h0.createEntry _ f true a1 a2).credit _ _) _
  · split
    · exact h0.placeBounce _ _ _ _
    · exact h

/-! ### Answers -/

theorem State.TableConsistent.countCompletion {s : State} (h : s.TableConsistent) (e : Entry) :
    (s.countCompletion e).TableConsistent := by
  unfold State.countCompletion
  simp only
  refine State.TableConsistent.updSlot ?_ _ _ (fun r => ?_) (fun r => ?_)
  · split
    · exact (h.credit _ _).credit _ _
    · exact h.credit _ _
  · unfold SlotRecord.sampleLatency SlotRecord.pushSample
    split
    · split <;> exact ⟨rfl, rfl, rfl⟩
    · exact ⟨rfl, rfl, rfl⟩
  · unfold SlotRecord.sampleLatency SlotRecord.pushSample
    split
    · split <;> rfl
    · rfl

theorem State.TableConsistent.holdEntry {s : State} (h : s.TableConsistent) {e : Entry} (d : Digest)
    (he : e ∈ s.table) (hk : e.kind = .request) : (s.holdEntry e d).TableConsistent := by
  refine State.TableAgrees.consistent (s := s.holdEntry e d) ?_ fun k => h.fits k
  exact h.agrees.updEntry e.key _ (fun _ => rfl) (fun _ => rfl) (fun _ => rfl)
    (fun x hx hxk hp => by rw [h.agrees.unique hx he hxk, hk] at hp; cases hp)
    (fun x hx _ => h.partners x hx)

theorem State.TableConsistent.removePair {s : State} (h : s.TableConsistent) {a b : Entry} (first : Bool)
    (ha : a ∈ s.table) (hb : b ∈ s.table) (hab : a.key ≠ b.key) :
    (s.removePair a b first).TableConsistent := by
  unfold State.removePair
  split
  · exact (h.removeEntry ha).removeEntry (State.mem_removeEntry.mpr ⟨hb, hab.symm⟩)
  · exact (h.removeEntry hb).removeEntry (State.mem_removeEntry.mpr ⟨ha, hab⟩)

theorem State.TableConsistent.compareTwins {s : State} (h : s.TableConsistent) {a b : Entry} (d : Digest)
    (x y : Bool) (ha : a ∈ s.table) (hb : b ∈ s.table) (hab : a.key ≠ b.key) :
    (s.compareTwins a b d x y).TableConsistent := by
  have h1 := h.removePair x ha hb hab
  unfold State.compareTwins State.raiseDivergences
  simp only
  split
  · exact h1
  · split <;> exact (((h1.credit _ _).credit _ _).raiseVerdict _ _ _ _ _).raiseVerdict _ _ _ _ _

theorem State.TableConsistent.disposeAnswered {s : State} (h : s.TableConsistent) {e : Entry} (d : Digest)
    (x y : Bool) (he : e ∈ s.table) (hk : e.kind = .request) :
    (s.disposeAnswered e d x y).TableConsistent := by
  unfold State.disposeAnswered
  split
  · exact h.removeEntry he
  · rename_i k hp
    split
    · exact h.removeEntry he
    · rename_i p hf
      obtain ⟨hpm, hpk⟩ := State.findEntry_some hf
      split
      · refine h.compareTwins d x y hpm he fun hh => h.partners e he k hp ?_
        have : k.slot = p.slot := (congrArg EntryKey.slot hpk).symm
        rw [this]; exact congrArg EntryKey.slot hh
      · exact h.holdEntry d he hk

theorem State.countCompletion_table (s : State) (e : Entry) : (s.countCompletion e).table = s.table := by
  unfold State.countCompletion
  simp only
  split <;> rfl

theorem State.TableConsistent.carryMatching {s : State} (h : s.TableConsistent) (i : SlotIndex)
    (f : Frame) (a b : Bool) : (s.carryMatching i f a b).TableConsistent := by
  have h0 : s.clearDownStage.TableConsistent := h.congr rfl rfl fun _ => rfl
  have fwd : ∀ {u : State}, u.TableConsistent → ∀ g, (u.forwardUp g).TableConsistent :=
    fun hu g => hu.congr rfl rfl fun _ => rfl
  unfold State.carryMatching
  simp only
  split
  · exact h0.probeAnswer _ _ _
  · exact fwd h0 _
  · exact h0.credit _ _
  · rename_i e hm
    have hf : s.findEntry i f.tag = some e ∧ e.kind = .request := by
      unfold State.matching at hm
      split at hm
      · cases hm
      · rename_i hnp
        have hnp := (not_or.mp hnp).2
        split at hm
        · cases hm
        · split at hm
          · cases hm
          · split at hm
            · cases hm
            · unfold State.matchEntry at hm
              split at hm
              · rename_i e' he'
                split at hm
                · cases hm
                · obtain rfl := Matching.completion.inj hm
                  refine ⟨he', ?_⟩
                  unfold State.probeEntryHas at hnp
                  rw [he'] at hnp
                  cases hk : e'.kind
                  · rfl
                  · simp [hk] at hnp
              · split at hm
                · cases hm
                · split at hm <;> cases hm
    refine fwd ((h0.countCompletion e).disposeAnswered _ _ _ ?_ hf.2) _
    rw [State.countCompletion_table]
    exact (State.findEntry_some hf.1).1
  · exact fwd (h0.credit _ _) _
  · refine fwd (State.TableConsistent.credit ?_ _ _) _
    exact h0.updSlot i _ (fun _ => ⟨rfl, rfl, rfl⟩) (fun _ => rfl)
  · exact fwd (h0.credit _ _) _

/-! ### Timed events -/

theorem State.TableConsistent.loseEntry {s : State} (h : s.TableConsistent) {e : Entry}
    (he : e ∈ s.table) : (s.loseEntry e).TableConsistent := by
  unfold State.loseEntry
  simp only
  have h1 : ((s.credit e.slot .losts).updSlot e.slot fun r =>
      { r with lostTags := pushLostTag r.lostTags e.tag }).TableConsistent :=
    (h.credit _ _).updSlot _ _ (fun _ => ⟨rfl, rfl, rfl⟩) (fun _ => rfl)
  have h2 := (h1.agrees.releasePartner e).consistent fun j => State.fits_releasePartner e (h1.fits j)
  exact h2.removeEntry (h1.agrees.mem_releasePartner_self he)

theorem State.TableConsistent.expireTwin {s : State} (h : s.TableConsistent) {e : Entry}
    (he : e ∈ s.table) : (s.expireTwin e).TableConsistent := by
  have h1 := h.removeEntry he
  unfold State.expireTwin
  simp only
  split
  · exact h1
  · refine State.TableConsistent.raiseVerdict (State.TableConsistent.credit ?_ _ _) _ _ _ _ _
    exact (h1.agrees.updEntry _ (fun p => { p.unpair with straggled := true }) (fun _ => rfl)
      (fun _ => rfl) (fun _ => rfl) (fun x hx _ hk => ⟨(h1.inFlight x hx hk).1, rfl, rfl⟩)
      (fun _ _ _ _ hq => by cases hq)).consistent fun k => h1.fits k

end Sys2Proof.Machine
end

