-- ==== Sys2Proof/Laws/Rounds.lean ====
section
/-! SUPPORT. What the two parts of a boundary leave (its closes and its census instant), and what the scan
of a probe service does. -/

namespace Sys2Proof.Machine

/-! ### The boundary (R26) -/

/-- The time base of a boundary: steps 1 to 4 of R26 at once. -/
theorem TimeBase.openWindow_advancePostscale (t : TimeBase) :
    t.openWindow.advancePostscale = { t with
      windowNumber := t.windowNumber + 1
      activeLength := t.latchedLength.getD t.activeLength
      latchedLength := none
      windowCounter := 0
      windowStart := t.tick
      postscaleCount :=
        if t.postscale = 0 ∨ t.postscale ≤ t.postscaleCount + 1 then 0 else t.postscaleCount + 1 } := by
  simp only [TimeBase.openWindow, TimeBase.advancePostscale]
  by_cases h0 : t.postscale = 0
  · simp [h0]
  · by_cases h1 : t.postscale ≤ t.postscaleCount + 1 <;> simp [h0, h1]

theorem TimeBase.censusDue_iff (t : TimeBase) :
    t.censusDue = true ↔ t.postscale ≠ 0 ∧ t.postscale ≤ t.postscaleCount + 1 := by
  simp [TimeBase.censusDue]

/-- The closes of a boundary, whatever the order of the turns. -/
theorem State.boundaryCloses_work (s : State) (turns : List SlotIndex) :
    CloseWork { s with time := s.time.openWindow.advancePostscale } (s.boundaryCloses turns) :=
  CloseWork.slotTurns s.time.windowStart (turnSequence turns) _

/-- The census instant of a boundary touches the report unit and the sticky flags alone. -/
theorem State.boundaryCensus_work (due : Bool) (s : State) :
    SlotWork s (s.boundaryCensus due) ∧ (s.boundaryCensus due).table = s.table ∧
      (s.boundaryCensus due).slots = s.slots ∧
      (due = true → (s.boundaryCensus due).report.periodVerdicts = 0) := by
  have report : ∀ (u : State) (r : ReportUnit), SlotWork s u → r.bounceQueue = u.report.bounceQueue →
      (u.report.outbox.length ≤ Config.outboxCapacity → r.outbox.length ≤ Config.outboxCapacity) →
      SlotWork s { u with report := r } := fun u r h hb ho =>
    ⟨h.trunk, h.time, h.policy, h.engine, h.store, h.pending, h.mgmt, hb.trans h.bounce,
      fun x => ho (h.outbox x), h.table, h.config⟩
  unfold State.boundaryCensus
  cases due
  · exact ⟨SlotWork.refl s, rfl, rfl, fun h => by cases h⟩
  · rw [if_pos rfl]
    unfold State.censusInstant
    split
    · unfold State.censusAlert
      split
      · refine ⟨report _ _ (SlotWork.queueAlert s _) rfl id, ?_, ?_, fun _ => rfl⟩
        · exact s.queueAlert_table _
        · exact s.queueAlert_slots _
      · exact ⟨report s _ (SlotWork.refl s) rfl id, rfl, rfl, fun _ => rfl⟩
    · exact ⟨report s _ (SlotWork.refl s) rfl id, rfl, rfl, fun _ => rfl⟩

/-! ### The scan of a service (R151) -/

/-- The service order names every slot, once. -/
theorem serviceOrder_all (p : SlotIndex) :
    (serviceOrder p).Nodup ∧ (∀ i, i ∈ serviceOrder p) ∧
    (serviceOrder p).Pairwise fun a b => (a.val + 31 - p.val) % 32 < (b.val + 31 - p.val) % 32 := by
  revert p; decide +kernel

/-- The request set rewritten. -/
def State.withRequests (s : State) (v : Vector (Option ProbeOrigin) 32) : State :=
  { s with engine := { s.engine with requests := v } }

theorem State.withRequests_congr (s : State) {v w : Vector (Option ProbeOrigin) 32}
    (h : ∀ j : SlotIndex, v[j] = w[j]) : s.withRequests v = s.withRequests w := by
  rw [show v = w from Vector.ext fun j hj => h ⟨j, hj⟩]

/-- A scan that meets no eligible request leaves none of the slots it examined in the set. -/
theorem State.serviceScan_none (l : List SlotIndex) (s : State)
    (h : ∀ i ∈ l, ∀ o, s.request? i = some o → (s.slot i).eligible o = false) :
    s.serviceScan l = s.withRequests (Vector.ofFn fun j => if j ∈ l then none else s.request? j) := by
  induction l generalizing s with
  | nil =>
    have : (Vector.ofFn fun j : SlotIndex => if j ∈ ([] : List SlotIndex) then none else s.request? j) =
        s.engine.requests := by ext j hj; simp [State.request?]
    rw [this]; rfl
  | cons a l ih =>
    unfold State.serviceScan
    split
    · rename_i hq
      rw [ih s fun i hi => h i (by simp [hi])]
      refine s.withRequests_congr fun j => ?_
      simp only [Fin.getElem_fin, Vector.getElem_ofFn, Fin.eta]
      by_cases hj : j = a
      · subst hj; simp [hq]
      · simp [hj]
    · rename_i o hq
      rw [if_neg (by rw [h a (by simp) o hq]; simp)]
      rw [ih (s.setRequest a none) fun i hi o' ho' => ?_]
      · show s.withRequests _ = s.withRequests _
        refine s.withRequests_congr fun j => ?_
        simp only [Fin.getElem_fin, Vector.getElem_ofFn, Fin.eta, State.request?_setRequest]
        by_cases hj : j = a
        · subst hj; simp
        · simp [hj, Ne.symm hj]
      · rw [State.request?_setRequest] at ho'
        split at ho'
        · cases ho'
        · exact h i (by simp [hi]) o' ho'

/-- A scan launches the first eligible request, the requests before it dropped. -/
theorem State.serviceScan_first (before : List SlotIndex) (i : SlotIndex) (after : List SlotIndex)
    (s : State) (o : ProbeOrigin)
    (h : ∀ j ∈ before, ∀ o, s.request? j = some o → (s.slot j).eligible o = false)
    (hi : i ∉ before) (ho : s.request? i = some o) (he : (s.slot i).eligible o = true) :
    s.serviceScan (before ++ i :: after) =
      (s.withRequests (Vector.ofFn fun j => if j ∈ before then none else s.request? j)).launch i o := by
  induction before generalizing s with
  | nil =>
    have : (Vector.ofFn fun j : SlotIndex => if j ∈ ([] : List SlotIndex) then none else s.request? j) =
        s.engine.requests := by ext j hj; simp [State.request?]
    rw [this, List.nil_append]
    unfold State.serviceScan
    simp only [ho, he, if_true]
    rfl
  | cons a l ih =>
    have hia : i ≠ a := fun hh => hi (by simp [hh])
    have hil : i ∉ l := fun hh => hi (by simp [hh])
    rw [List.cons_append]
    unfold State.serviceScan
    split
    · rename_i hq
      rw [ih s (fun j hj => h j (by simp [hj])) hil ho he]
      refine congrArg (fun v : State => v.launch i o) (s.withRequests_congr fun j => ?_)
      simp only [Fin.getElem_fin, Vector.getElem_ofFn, Fin.eta]
      by_cases hj : j = a
      · subst hj; simp [hq]
      · simp [hj]
    · rename_i o' hq
      rw [if_neg (by rw [h a (by simp) o' hq]; simp)]
      rw [ih (s.setRequest a none) (fun j hj o' ho' => ?_) hil ?_ he]
      · refine congrArg (fun v : State => v.launch i o) ?_
        show s.withRequests _ = s.withRequests _
        refine s.withRequests_congr fun j => ?_
        simp only [Fin.getElem_fin, Vector.getElem_ofFn, Fin.eta, State.request?_setRequest]
        by_cases hj : j = a
        · subst hj; simp
        · simp [hj, Ne.symm hj]
      · rw [State.request?_setRequest, if_neg (Ne.symm hia)]; exact ho
      · rw [State.request?_setRequest] at ho'
        split at ho'
        · cases ho'
        · exact h j (by simp [hj]) o' ho'

end Sys2Proof.Machine
end

