-- ==== Sys2Proof/WellFormed.lean ====
section
/-! DEFINITION. Which commands are well formed: a turn order names no slot twice (R109: every slot
record takes one turn). The step is total, so an ill-formed order is still taken, each slot once. -/

namespace Sys2Proof

/-- A preferred order of turns names each slot at most once. -/
def turnsWellFormed (turns : List SlotIndex) : Bool := decide turns.Nodup

/-- Well-formedness of a command. -/
def Instr.wellFormed : Instr → Bool
  | .naturalBoundary turns => turnsWellFormed turns
  | .markEdge _ orders => turnsWellFormed orders.turns
  | .powerOnReset _ | .lineReset _ | .storeLoadComplete _ | .claimTimeout
  | .frameComplete _ _ | .frameOverrun _ | .takeUpFrame | .takeDownFrame _ _
  | .upTransmitBegin | .downTransmitBegin | .tick | .entryDeadline _ _ | .entryLoss _ _
  | .twinWindowExpiry _ _ | .probeDeadline | .probeService | .storeWriteComplete _
  | .enumerate | .identify | .claim | .release | .reset | .setRange | .setGroups | .setTiming
  | .writeProfile | .readProfile | .writePolicy | .readPolicy | .commit | .admitSlot | .park
  | .fence | .unfence | .vacate | .pair | .unpair | .configureSlot | .slotStatus | .readSample
  | .snapshot | .readSnapshot | .probe | .probeResult | .store | .censusQuery | .unknown
  | .partnerHoldChange _ _ | .transmitEnd _ => true

end Sys2Proof
end

