-- ==== Sys2Proof/Tests/Slice0.lean ====
section
/-! SUPPORT. Tests: ill-formed commands refused by the check, worked values of the frame and of a few
commands, and, for every statement with hypotheses, states and operands that meet them. -/

namespace Sys2Proof.Tests

-- One proof at a time: each evaluation in the kernel takes a thread of its own.
set_option Elab.async false

open Sys2Proof Sys2Proof.Machine

/-! ### Well-formedness, words, the check -/

theorem test_turn_order_naming_a_slot_twice_is_refused :
    (Instr.naturalBoundary [3, 3]).wellFormed = false ∧
    (Instr.markEdge true ⟨[0, 31, 0], true⟩).wellFormed = false ∧
    (Instr.naturalBoundary [31, 0]).wellFormed = true ∧
    (Instr.markEdge false ⟨[], false⟩).wellFormed = true := by
  decide

theorem test_no_table_word_spells_a_command :
    decodeTableWord 8 0x0E = none ∧ State.reset.withFetchWord 8 0x0E = State.reset :=
  ⟨rfl, rfl⟩

/-- The check value of R3. -/
theorem test_crc_check_value :
    crc [0x31, 0x32, 0x33, 0x34, 0x35, 0x36, 0x37, 0x38, 0x39] = 0xE3069283 := by decide +kernel

/-- A REQ of class 3 to slot address 42h, tag 00001234h, payload 07h, byte for byte (R1). -/
theorem test_frame_bytes :
    ((mkFrame 1 3 0x42 0x1234 [7]).bytes).take 9 = [0x13, 0x42, 0, 0, 0x12, 0x34, 0, 1, 7] ∧
    ((mkFrame 1 3 0x42 0x1234 [7]).bytes).length = 13 := by decide +kernel

/-! ### States for the witnesses -/

/-- A watching monitor, chain address 2, groups 0 and 2, watch base 40h. -/
def wit : State :=
  { State.reset with mgmt := { State.reset.mgmt with
      mode := .watching, chain := 2, watchBase := 64, groups := 5 } }

/-- The same outside WATCHING. -/
def witIn (m : Mode) : State := { wit with mgmt := { wit.mgmt with mode := m } }

/-- Slot `i` in a state. -/
def withSt (s : State) (i : SlotIndex) (st : SlotState) : State :=
  s.updSlot i fun r => { r with state := st }

/-- A monitor whose slot 3 is LIVE. -/
def live3 : State := withSt wit 3 .live

/-- A frame; no hypothesis speaks of its check. -/
def fr (kind : BitVec 4) (cls : TxClass) (slot : Byte) (tag : Tag) (payload : List Byte) : Frame :=
  ⟨kind, cls, slot, tag, payload, 0⟩

/-- A frame in the receive stage of UP. -/
def up (s : State) (f : Frame) : State := { s with trunk := { s.trunk with upStage := some f } }

/-- A frame in the receive stage of DOWN. -/
def dn (s : State) (f : Frame) : State :=
  { s with trunk := { s.trunk with downStage := some f } }

/-- An OPEN REQUEST entry of slot 3 with tag 9, due at tick 20 and lost at tick 30. -/
def ent : Entry :=
  { slot := 3, tag := 9, cls := 1, kind := .request, state := .opened, arrival := 0, deadline := 20,
    loss := 30, retries := 0, redirected := false, partner := none, pairWindow := none,
    digest := none, twinExpiry := none, straggled := false }

/-- The twin's entry, in slot 4. -/
def twinEnt : Entry := { ent with slot := 4 }

/-- The tick counter set. -/
def atTick (s : State) (t : Tick) : State := { s with time := { s.time with tick := t } }

/-- A command copy in the command buffer. -/
def copy (s : State) (payload : List Byte) (how : Addressing) : State :=
  { s with mgmt := { s.mgmt with command := some ⟨payload, 7, how⟩ } }

theorem holds_copy (s : State) (code : Byte) (params : List Byte) (how : Addressing)
    (started : s.mgmt.mode ≠ .starting) (room : s.mgmt.replyQueue.length < 4) :
    (copy s (code :: params) how).Holds code params 7 how :=
  ⟨rfl, started, fun _ => room⟩

/-- A copy in `wit` or in a state made from it by slot changes. -/
theorem test_a_copy_is_held :
    (copy wit [0x0E, 0x43] .own).Holds 0x0E [0x43] 7 .own ∧
    (copy wit [0x03] .group).Holds 0x03 [] 7 .group ∧
    (copy wit [0x03] .all).Holds 0x03 [] 7 .all :=
  ⟨holds_copy wit _ _ _ (by decide) (by decide), holds_copy wit _ _ _ (by decide) (by decide),
    holds_copy wit _ _ _ (by decide) (by decide)⟩

theorem test_slot_addresses :
    wit.Addresses 0x40 0 ∧ wit.Addresses 0x43 3 ∧ wit.Addresses 0x5F 31 ∧ wit.OutsideRange 0x3F ∧
    wit.OutsideRange 0x60 := by decide

/-! ### Hypotheses of the statements: step, resets, frames, alerts -/

/-- `wit` with a divider count. -/
def counted (n : Nat) : State := { wit with time := { wit.time with dividerCount := n } }

theorem test_hyp_StepRunsTheFrontCommand :
    ({ wit with pending := [.tick, .claim] } : State).pending = .tick :: [.claim] := rfl

/-- The claim timer of UNCLAIMED, 50 units long, with its periods. -/
def claiming (n : Nat) : State :=
  { counted 499 with mgmt := { (witIn .unclaimed).mgmt with claimTimer := some ⟨50, n⟩ } }

theorem test_hyp_ReferenceClockAndTick :
    (State.reset.pending = [] ∧ State.reset.mgmt.mode = .starting) ∧
    ((counted 498).pending = [] ∧ (counted 498).mgmt.mode ≠ .starting ∧
      (counted 498).time.dividerCount + 1 < (counted 498).time.divider) ∧
    ((counted 499).pending = [] ∧ (counted 499).mgmt.mode ≠ .starting ∧
      (counted 499).time.divider ≤ (counted 499).time.dividerCount + 1 ∧
      (counted 499).eventDue = false) ∧
    ((claiming 249999999).eventDue = false ∧ (claiming 250000000).eventDue = true ∧
      ¬ 50 * 5000000 ≤ 249999999 ∧ 50 * 5000000 ≤ 250000000) := by decide +kernel

/-- A monitor with a store write under way. -/
def writing : State := { wit with store := { wit.store with writing := some StoredItems.default } }

/-- A monitor in STARTING with a good image. -/
def goodImage : State :=
  { State.reset with store := { State.reset.store with image := ⟨true, true, StoredItems.default⟩ } }

/-- A monitor held in reset. -/
def resetHeld : State := { State.reset with mgmt := { State.reset.mgmt with resetHeld := true } }

theorem test_hyp_PowerOnAndLineReset :
    wit.store.writing = none ∧ writing.store.writing ≠ none ∧ wit.mgmt.resetHeld = false ∧
    resetHeld.mgmt.resetHeld = true := by decide +kernel

theorem test_hyp_StoreLoadEndsStarting :
    State.reset.mgmt.mode = .starting ∧ State.reset.store.image.good = false ∧
    State.reset.mgmt.resetHeld = false ∧ goodImage.mgmt.resetHeld = false ∧
    resetHeld.mgmt.resetHeld = true ∧ wit.mgmt.mode ≠ .starting ∧
    goodImage.mgmt.mode = .starting ∧ goodImage.store.image.good = true ∧
    goodImage.report.outbox.length < 32 := by decide +kernel

theorem test_hyp_FramesSentAreReceivedGood :
    ([] : List Byte).length ≤ 1024 ∧ (List.replicate 1024 (0 : Byte)).length ≤ 1024 :=
  ⟨Nat.zero_le _, List.length_replicate.le⟩

/-- A frame begun in STARTING is still arriving at each port. -/
def arriving : State := { wit with trunk := { wit.trunk with upDiscard := true, downDiscard := true } }

/-- A good frame; each of the other four is bad for one reason of R5. -/
theorem test_hyp_ReceptionOfFrames :
    (arriving.mgmt.mode ≠ .starting ∧ arriving.trunk.upDiscard = true ∧
      arriving.trunk.downDiscard = true ∧ wit.trunk.upDiscard = false ∧ wit.trunk.downDiscard = false) ∧
    (wit.mgmt.mode ≠ .starting ∧ wit.trunk.upStage = none ∧ wit.trunk.downStage = none ∧
      parseFrame (mkFrame 1 3 0x42 0x1234 [7]).bytes = some (mkFrame 1 3 0x42 0x1234 [7])) ∧
    (up wit (fr 1 3 0x42 9 [])).trunk.upStage ≠ none ∧
    (dn wit (fr 2 3 0x42 9 [])).trunk.downStage ≠ none ∧ State.reset.mgmt.mode = .starting ∧
    (List.replicate 11 (0 : Byte)).length < 12 ∧
    1024 < fromBE (slice [0, 0, 0, 0, 0, 0, 4, 1, 0, 0, 0, 0] 6 2) ∧
    [0, 0, 0, 0, 0, 0, 0, 1, 0, 0, 0, (0 : Byte)].length - 12 ≠
      fromBE (slice [0, 0, 0, 0, 0, 0, 0, 1, 0, 0, 0, 0] 6 2) ∧
    parseFrame (List.replicate 12 0) = none := by decide +kernel

/-- An outbox record. -/
def rec0 : OutboxRecord := ⟨.mode .unclaimed .watching, 2⟩

/-- An outbox of `n` records, a lost count and the census mark. -/
def outboxOf (n lost : Nat) (owed : Bool) : State :=
  { wit with report := { wit.report with
      outbox := List.replicate n rec0, lostCount := lost, censusOwed := owed } }

/-- A partner that holds, or a transmitter that is sending, at both ports. -/
def busyPorts (hold : Bool) (f : Option Frame) : State :=
  { wit with trunk := { wit.trunk with
      upHeld := hold, downHeld := hold, upSending := f, downSending := f } }

/-- Each hypothesis under which nothing begins. -/
theorem test_hyp_TrunkArbiters_nothing_begins :
    State.reset.mgmt.mode = .starting ∧ (busyPorts true none).trunk.upHeld = true ∧
    (busyPorts true none).trunk.downHeld = true ∧
    (busyPorts false (some (fr 3 1 0x43 9 []))).trunk.upSending ≠ none ∧
    (busyPorts false (some (fr 3 1 0x43 9 []))).trunk.downSending ≠ none ∧
    (wit.trunk.ascBuffer = [] ∧ wit.report.bounceQueue = [] ∧ wit.mgmt.replyQueue = [] ∧
      wit.report.outbox = [] ∧ wit.trunk.descBuffer = [] ∧ wit.engine.pendingFrame = none) := by
  decide +kernel

/-- Each hypothesis of the arbiters' clauses, the outbox at 31 and 32 records. -/
theorem test_hyp_TrunkArbiters :
    (wit.mgmt.mode ≠ .starting ∧ wit.trunk.upSending = none ∧ wit.trunk.upHeld = false ∧
      wit.trunk.ascBuffer = [] ∧ wit.report.bounceQueue = [] ∧ wit.mgmt.replyQueue = [] ∧
      wit.report.outbox = [] ∧ wit.trunk.ascLast = .inserted ∧ wit.engine.pendingFrame = none ∧
      wit.trunk.downSending = none ∧ wit.trunk.downHeld = false ∧ wit.trunk.descLast = .inserted) ∧
    ((outboxOf 31 1 true).report.outbox = rec0 :: List.replicate 30 rec0 ∧
      (outboxOf 31 1 true).report.outbox.length < 32) ∧
    ((outboxOf 32 1 true).report.outbox.length = 32 ∧ 0 < (outboxOf 32 1 true).report.lostCount) ∧
    ((outboxOf 32 0 true).report.outbox.length = 32 ∧ (outboxOf 32 0 true).report.lostCount = 0 ∧
      (outboxOf 32 0 true).report.censusOwed = true) ∧
    ((outboxOf 32 0 false).report.lostCount = 0 ∧ (outboxOf 32 0 false).report.censusOwed = false) := by
  decide +kernel

/-- Frames in the through buffers, the queues and the probe engine. -/
def queued (f : Frame) : State :=
  { wit with
    trunk := { wit.trunk with ascBuffer := [f], descBuffer := [f], descLast := .through }
    report := { wit.report with bounceQueue := [f] }
    mgmt := { wit.mgmt with replyQueue := [f] }
    engine := { wit.engine with pendingFrame := some f } }

theorem test_hyp_TrunkArbiters_queues :
    let s := queued (fr 3 1 0x43 9 [1, 2])
    s.trunk.upSending = none ∧ s.trunk.downSending = none ∧ s.trunk.ascLast = .inserted ∧
    s.trunk.ascBuffer = fr 3 1 0x43 9 [1, 2] :: [] ∧ s.report.bounceQueue = fr 3 1 0x43 9 [1, 2] :: [] ∧
    s.mgmt.replyQueue = fr 3 1 0x43 9 [1, 2] :: [] ∧ s.trunk.descBuffer = fr 3 1 0x43 9 [1, 2] :: [] ∧
    s.engine.pendingFrame = some (fr 3 1 0x43 9 [1, 2]) ∧ s.trunk.descLast = .through := by
  decide +kernel

theorem test_hyp_AlertQueueAndPacing :
    (outboxOf 31 0 false).report.outbox.length < 32 ∧ 32 ≤ (outboxOf 32 0 false).report.outbox.length ∧
    (wit.slot 3).pacing.get .stall = 0 ∧
    ((wit.updSlot 3 fun r => { r with pacing := .all 15 }).slot 3).pacing.get .probeFail ≠ 0 := by
  decide +kernel

/-! ### Frames taken at UP and DOWN -/

/-- Class 5 not watched. -/
def unwatched5 : State :=
  { live3 with mgmt := { live3.mgmt with
      activeProfiles := live3.mgmt.activeProfiles.set 5 { ClassProfile.default with watched := false } } }

/-- A PROBE entry of slot 3 with tag 9, and the probe in flight. -/
def probing : State :=
  { live3.addEntry { ent with kind := .probe } with
    engine := { live3.engine with inFlight := some ⟨3, 0x43, 9, .command, 0⟩ } }

/-- A descending and an ascending through buffer of `n` frames. -/
def buffered (n : Nat) : State :=
  { live3 with trunk := { live3.trunk with
      descBuffer := List.replicate n (fr 1 1 0 0 []), ascBuffer := List.replicate n (fr 2 1 0 0 []) } }

theorem test_hyp_FramesForwardedUntracked :
    ((up (buffered 8) (fr 1 1 0x43 9 [])).trunk.upStage = some (fr 1 1 0x43 9 []) ∧
      8 ≤ (up (buffered 8) (fr 1 1 0x43 9 [])).trunk.descBuffer.length) ∧
    (up (buffered 7) (fr 0 1 0x43 9 [])).trunk.descBuffer.length < 8 ∧
    ((fr 0 1 0x43 9 []).kind ≠ 1 ∧ (fr 0 1 0x43 9 []).kind ≠ 4 ∧ (fr 15 1 0x43 9 []).kind ≠ 4) ∧
    ((fr 1 1 0x43 9 []).kind = 1 ∧ (witIn .unclaimed).mgmt.mode ≠ .watching) ∧
    (wit.OutsideRange (fr 1 1 0x3F 9 []).slot ∧ wit.OutsideRange (fr 1 1 0x60 9 []).slot) ∧
    (wit.Addresses (fr 1 1 0x5F 9 []).slot 31 ∧ (wit.slot 31).state = .vacant) ∧
    (live3.Addresses 0x43 3 ∧ (live3.slot 3).state.accepting = true ∧
      tagMarker (fr 1 1 0x43 0xFFFE0001 []).tag = live3.engine.marker) ∧
    (unwatched5.Addresses 0x43 3 ∧ (unwatched5.slot 3).state.accepting = true ∧
      (unwatched5.profile (fr 1 5 0x43 9 []).cls).watched = false) ∧
    (probing.Addresses 0x43 3 ∧ (probing.slot 3).state.accepting = true ∧
      probing.findEntry 3 9 = some { ent with kind := .probe }) := by decide +kernel

theorem test_hyp_FramesForwardedUntracked_down :
    (8 ≤ (dn (buffered 8) (fr 2 1 0x43 9 [])).trunk.ascBuffer.length ∧
      (dn (buffered 7) (fr 2 1 0x43 9 [])).trunk.ascBuffer.length < 8) ∧
    ((fr 1 1 0x43 9 []).kind ≠ 2 ∧ (fr 1 1 0x43 9 []).kind ≠ 7) ∧
    ((fr 7 0 0 0 (List.replicate 24 0)).kind = 7 ∧
      (fr 7 0 0 0 (List.replicate 24 0)).payload.length ≠ 25) ∧
    ((fr 2 1 0x60 9 []).kind = 2 ∧ wit.OutsideRange (fr 2 1 0x60 9 []).slot) ∧
    (live3.Addresses 0x43 3 ∧ live3.findEntry 3 0xFFFE5001 = none ∧
      tagMarker (0xFFFE5001 : Tag) = live3.engine.marker ∧
      tagChain (0xFFFE5001 : Tag) ≠ live3.mgmt.chain) ∧
    (wit.Addresses 0x40 0 ∧ wit.findEntry 0 9 = none ∧ tagMarker (9 : Tag) ≠ wit.engine.marker ∧
      (wit.slot 0).state = .vacant ∧ ((withSt wit 0 .parked).slot 0).state = .parked) ∧
    (unwatched5.Addresses 0x43 3 ∧ unwatched5.findEntry 3 9 = none ∧
      (unwatched5.slot 3).state ≠ .fenced ∧ (unwatched5.profile 5).watched = false) := by decide +kernel

/-- The four ways an MGT frame meets the monitor of chain address 2 and groups 0 and 2, and none. -/
theorem test_hyp_ManagementFramesTakenAtUp :
    ((up wit (fr 4 0 2 7 [2])).trunk.upStage = some (fr 4 0 2 7 [2]) ∧ wit.mgmt.mode ≠ .starting ∧
      wit.trunk.descBuffer.length < 8 ∧ wit.mgmt.chain ≠ 0 ∧
      (fr 4 0 2 7 [2]).slot.toNat = wit.mgmt.chain.toNat) ∧
    ((0x40 : Byte).toNat = 0x40 + (0 : Fin 4).val ∧ wit.mgmt.groups.getLsbD 0 = true ∧
      (0x42 : Byte).toNat = 0x40 + (2 : Fin 4).val ∧ wit.mgmt.groups.getLsbD 2 = true) ∧
    ((fr 4 0 0xFF 7 [1, 255]).slot = 0xFF ∧ (fr 4 0 0xFF 7 [1, 255]).payload = [0x01, 255]) ∧
    ((0x43 : Byte) ≠ 0xFF ∧ (0x43 : Byte).toNat ≠ wit.mgmt.chain.toNat ∧
      (∀ g : Fin 4, (0x43 : Byte).toNat = 0x40 + g.val → wit.mgmt.groups.getLsbD g.val = false)) := by
  decide +kernel

theorem test_hyp_ManagementFramesTakenAtUp_all : ∀ n : Byte, (fr 4 0 0xFF 7 [1]).payload ≠ [0x01, n] := by
  intro n h
  have := congrArg List.length h
  simp [fr] at this

/-- `live3` with slot 4 LIVE and the twin of slot 3, an entry of its own in the table. -/
def twins (c : Entry) : State :=
  ((withSt live3 4 .live).updSlot 3 fun r => { r with config := { r.config with twin := some 4 } }).addEntry c

theorem test_hyp_AdmissionAndRetry :
    (live3.Addresses 0x43 3 ∧ tagMarker (9 : Tag) ≠ live3.engine.marker ∧
      (live3.slot 3).state.accepting = true ∧ (live3.profile 1).watched = true ∧
      live3.findEntry 3 9 = none ∧ (live3.slot 3).requestCount < (live3.slot 3).ceiling ∧
      live3.table.length < 2048 ∧ (live3.slot 3).config.twin = none) ∧
    (((live3.updSlot 3 fun r => { r with requestCount := 3 }).slot 3).requestCount <
      ((live3.updSlot 3 fun r => { r with requestCount := 3 }).slot 3).ceiling) ∧
    (((twins twinEnt).slot 3).config.twin = some 4 ∧ (twins twinEnt).findEntry 3 9 = none ∧
      (twins twinEnt).findEntry 4 9 = some twinEnt ∧ twinEnt.kind = .request ∧
      twinEnt.redirected = false ∧ twinEnt.partner = none ∧ twinEnt.straggled = false ∧
      twinEnt.state ≠ .held) ∧
    ((twins { twinEnt with tag := 8 }).findEntry 4 9 = none) ∧
    ((twins { twinEnt with straggled := true }).findEntry 4 9 =
      some { twinEnt with straggled := true }) ∧
    ((live3.addEntry { ent with retries := 2 }).findEntry 3 9 = some { ent with retries := 2 } ∧
      ({ ent with retries := 2 } : Entry).retries < 3) := by decide +kernel

/-- `live3` with slot 4 in a state and slot 3 its stand-in. -/
def standing (st : SlotState) : State :=
  (withSt live3 4 st).updSlot 4 fun r => { r with config := { r.config with standIn := some 3 } }

/-- The table full of one entry's copies. -/
def fullTable : State := { live3 with table := List.replicate 2048 ent }

/-- The clauses of the bounces: by state, by stand-in, at the retry limit, at the ceiling, at the full
table; the bounce queue at 15 and 16. -/
theorem test_hyp_AdmissionBounces :
    ((withSt wit 3 .parked).Addresses 0x43 3 ∧ ((withSt wit 3 .parked).slot 3).state = .parked ∧
      ((withSt wit 3 .parked).slot 3).config.standIn = none) ∧
    ((standing .draining).Addresses 0x44 4 ∧ ((standing .draining).slot 4).state = .draining ∧
      ((standing .draining).slot 4).config.standIn = some 3) ∧
    (((withSt (standing .fenced) 3 .parked).slot 4).state = .fenced ∧
      ((withSt (standing .fenced) 3 .parked).slot 3).state.accepting = false) ∧
    (((standing .parked).addEntry { ent with retries := 3 }).findEntry 3 9 =
        some { ent with retries := 3 } ∧ 3 ≤ ({ ent with retries := 3 } : Entry).retries) ∧
    (((standing .parked).addEntry { ent with kind := .probe }).findEntry 3 9 =
        some { ent with kind := .probe }) ∧
    ((live3.updSlot 3 fun r => { r with requestCount := 4 }).findEntry 3 9 = none ∧
      ((live3.updSlot 3 fun r => { r with requestCount := 4 }).slot 3).ceiling ≤
        ((live3.updSlot 3 fun r => { r with requestCount := 4 }).slot 3).requestCount) ∧
    (fullTable.findEntry 3 8 = none ∧ (fullTable.slot 3).requestCount < (fullTable.slot 3).ceiling ∧
      2048 ≤ fullTable.table.length ∧ (fullTable.profile 1).watched = true) ∧
    (16 ≤ (List.replicate 16 (fr 3 0 0 0 [])).length ∧ (List.replicate 15 (fr 3 0 0 0 [])).length < 16) := by
  decide +kernel

theorem test_hyp_RedirectToTheStandIn :
    ((standing .parked).Addresses 0x44 4 ∧ ((standing .parked).slot 4).config.standIn = some 3 ∧
      ((standing .parked).slot 3).state.accepting = true ∧ (standing .parked).findEntry 3 9 = none ∧
      ((standing .parked).profile 1).watched = true ∧
      ((standing .parked).slot 3).requestCount < ((standing .parked).slot 3).ceiling ∧
      (standing .parked).table.length < 2048) ∧
    ((standing .fenced).addEntry { ent with retries := 2 }).findEntry 3 9 =
      some { ent with retries := 2 } := by decide +kernel

theorem test_hyp_CreditsAndLatencySamples :
    let r := wit.slot 3
    r.captureCount + 1 ≠ r.config.divisor ∧
    ({ r with captureCount := 15 } : SlotRecord).captureCount + 1 =
      ({ r with captureCount := 15 } : SlotRecord).config.divisor ∧
    (List.replicate 3 (⟨1, 0, false⟩ : Sample)).length < 4 ∧
    4 ≤ (List.replicate 4 (⟨1, 0, false⟩ : Sample)).length := by decide +kernel

/-- The figures of a CEN frame. -/
def cen : CenFields :=
  { states := ⟨32, 0, 0, 65535, 0, 0, 0⟩, occupancy := 2048, maxAge := 65535, minLive := 65535,
    verdicts := 3, merged := 255, notWatching := 254, seq := 7 }

theorem test_hyp_CensusFramesAreMerged :
    (dn wit (fr 7 0 0 0 cen.payload)).trunk.downStage = some (fr 7 0 0 0 cen.payload) ∧
    wit.mgmt.mode ≠ .starting ∧ (witIn .transparent).mgmt.mode ≠ .watching ∧
    wit.trunk.ascBuffer.length < 8 ∧ (fr 7 0 0 0 cen.payload).payload = cen.payload ∧
    cen.states.live < 65536 ∧ cen.occupancy < 65536 ∧ cen.maxAge < 65536 ∧ cen.minLive < 65536 ∧
    cen.merged < 256 ∧ cen.notWatching < 256 := by decide +kernel

theorem test_hyp_AnswersWithoutAnOpenEntry :
    ((live3.addEntry { ent with state := .held }).findEntry 3 9 = some { ent with state := .held }) ∧
    (((withSt wit 3 .fenced).slot 3).state = .fenced ∧ (withSt wit 3 .fenced).findEntry 3 9 = none ∧
      (withSt wit 3 .fenced).Addresses 0x43 3) ∧
    (live3.findEntry 3 9 = none ∧ (live3.profile 1).watched = true ∧ (9 : Tag) ∉ (live3.slot 3).lostTags ∧
      (9 : Tag) ∈ ((live3.updSlot 3 fun r => { r with lostTags := [8, 9] }).slot 3).lostTags) := by
  decide +kernel

/-- A twin pair waiting for its answers: slot 3's entry, and slot 4's in a state. -/
def pairOf (st : EntryState) : State :=
  let held : Entry :=
    { twinEnt with
      partner := some ⟨3, 9⟩, pairWindow := some 5000, state := st, digest := some 0 }
  (twins held).addEntry { ent with partner := some ⟨4, 9⟩, pairWindow := some 5000 }

theorem test_hyp_AnswersToAnEntry :
    (live3.addEntry ent).findEntry 3 9 = some ent ∧ ent.kind = .request ∧ ent.state ≠ .held ∧
    (pairOf .opened).findEntry 3 9 = some { ent with partner := some ⟨4, 9⟩, pairWindow := some 5000 } ∧
    ((pairOf .opened).findEntry 4 9).map Entry.state = some .opened ∧
    ((pairOf .held).findEntry 4 9).map Entry.state = some .held ∧
    ((pairOf .held).findEntry 4 9).map Entry.digest = some (some (crc [])) ∧
    ((pairOf .held).findEntry 4 9).map Entry.digest ≠ some (some (crc [1])) := by decide +kernel

theorem test_hyp_RemovalOfAnEntry :
    let s := (withSt live3 3 .draining).addEntry ent
    let r : SlotRecord := { s.slot 3 with requestCount := (s.slot 3).requestCount - 1 }
    (r.state = .draining ∧ r.requestCount = 0 ∧ r.probeEntry = false ∧ r.fencePending = false) ∧
    ((live3.addEntry ent).slot 3).state ≠ .draining := by decide +kernel

theorem test_hyp_ProbesEnd :
    let s := dn probing (fr 2 1 0x43 9 [5])
    (s.trunk.downStage = some (fr 2 1 0x43 9 [5]) ∧ s.mgmt.mode = .watching ∧
      s.trunk.ascBuffer.length < 8 ∧ s.Addresses 0x43 3 ∧
      s.findEntry 3 9 = some { ent with kind := .probe } ∧
      s.engine.inFlight = some ⟨3, 0x43, 9, .command, 0⟩ ∧ (s.slot 3).config.probeDigest = none) ∧
    (tagMarker (0xFFFE2000 : Tag) = live3.engine.marker ∧ tagChain (0xFFFE2000 : Tag) = live3.mgmt.chain ∧
      live3.engine.inFlight = none) ∧
    (some (0 : Digest) = some 0 ∧ (0 : Digest) ≠ crc [5]) ∧
    ((atTick probing 20).findEntry 3 9 = some { ent with kind := .probe } ∧
      ({ ent with kind := .probe } : Entry).deadline = (atTick probing 20).time.tick) := by decide +kernel

/-! ### Timed events, boundaries, verdicts -/

theorem test_hyp_DeadlineAndLossOfAnEntry :
    ((atTick (live3.addEntry ent) 20).findEntry 3 9 = some ent ∧
      ent.deadline = (atTick (live3.addEntry ent) 20).time.tick ∧ ent.loss ≠ ent.deadline ∧
      ent.deadline ≠ (atTick (live3.addEntry ent) 21).time.tick) ∧
    ((atTick (live3.addEntry { ent with state := .overdue }) 30).findEntry 3 9 =
      some { ent with state := .overdue } ∧ ent.loss = (atTick live3 30).time.tick) ∧
    (({ ent with loss := 20 } : Entry).state = .opened ∧
      ({ ent with loss := 20 } : Entry).loss = ({ ent with loss := 20 } : Entry).deadline ∧
      (atTick (live3.addEntry { ent with loss := 20 }) 20).findEntry 3 9 =
        some { ent with loss := 20 }) ∧
    (((atTick (pairOf .held) 30).findEntry 4 9).map Entry.state = some .held ∧
      ((atTick (pairOf .opened) 30).findEntry 4 9).map Entry.state = some .opened) := by decide +kernel

theorem test_hyp_TwinWindowExpiryRaisesStraggle :
    let h : Entry := { ent with
      state := .held, partner := some ⟨4, 9⟩, pairWindow := some 10, digest := some 0,
      twinExpiry := some 25 }
    let s := atTick ((twins { twinEnt with partner := some ⟨3, 9⟩, pairWindow := some 10 }).addEntry h) 25
    s.findEntry 3 9 = some h ∧ h.kind = .request ∧ h.state = .held ∧ h.twinExpiry = some s.time.tick ∧
    h.partner = some ⟨4, h.tag⟩ := by decide +kernel

/-- A window counter, a postscale and its count. -/
def timed (s : State) (counter post count : Nat) : State :=
  { s with time := { s.time with windowCounter := counter, postscale := post, postscaleCount := count } }

theorem test_hyp_NaturalBoundary :
    ((timed live3 10000 50 49).mgmt.mode = .watching ∧
      (timed live3 10000 50 49).time.activeLength ≤ (timed live3 10000 50 49).time.windowCounter ∧
      (timed live3 10000 50 49).time.postscale ≠ 0 ∧
      (timed live3 10000 50 49).time.postscale ≤ (timed live3 10000 50 49).time.postscaleCount + 1) ∧
    (¬ (timed live3 10000 50 48).time.postscale ≤ (timed live3 10000 50 48).time.postscaleCount + 1) ∧
    (∀ i, ((timed (withSt wit 3 .parked) 10000 0 0).slot i).state = .vacant ∨
      ((timed (withSt wit 3 .parked) 10000 0 0).slot i).state = .parked) := by decide +kernel

theorem test_hyp_CensusInstant :
    (witIn .transparent).mgmt.mode ≠ .watching ∧ wit.mgmt.mode = .watching ∧
    (outboxOf 31 0 false).report.outbox.length < 32 ∧ 32 ≤ (outboxOf 32 0 false).report.outbox.length ∧
    (live3.slot 3).state = .live := by decide +kernel

/-- MARK enables. -/
def marked (s : State) (m : MarkEnables) : State := { s with time := { s.time with markEnables := m } }

/-- Each sample: in STARTING, high after low without and with a boundary, low, high after high. -/
theorem test_hyp_MarkEdge :
    State.reset.mgmt.mode = .starting ∧ wit.time.markEnables.align = false ∧
    wit.mgmt.mode ≠ .starting ∧ wit.time.markSample = false ∧
    (wit.sampleMark true).time.markSample = true ∧
    (marked wit ⟨true, true, true⟩).time.windowCounter = 0 ∧
    ((marked (timed wit 1 1 0) ⟨true, true, true⟩).time.markEnables.align = true ∧
      1 ≤ (marked (timed wit 1 1 0) ⟨true, true, true⟩).time.windowCounter ∧
      (marked (timed wit 1 1 0) ⟨true, true, true⟩).time.markSample = false) := by
  decide +kernel

theorem test_hyp_TurnOfASlotAndItsWindowVerdicts :
    (wit.slot 3).state = .vacant ∧ ((withSt wit 3 .parked).slot 3).state = .parked ∧
    ((withSt wit 3 .fenced).slot 3).state = .fenced ∧
    ((live3.updSlot 3 fun r => { r with settling := 1 }).slot 3).settling ≠ 0 ∧
    ((live3.slot 3).state ≠ .fenced ∧ (live3.slot 3).settling = 0) := by decide +kernel

/-- `live3` with slot 3 in a state and with a clean run. -/
def runOf (st : SlotState) (n : Nat) : State :=
  (withSt live3 3 st).updSlot 3 fun r => { r with cleanRun := n }

theorem test_hyp_CloseOfAnUntroubledSlot :
    let p := live3.policySet 3
    ((live3.slot 3).fencePending = false ∧ (live3.slot 3).window.losts < p.missThreshold ∧
      (live3.slot 3).window.lates + (live3.slot 3).window.tardies < p.lateThreshold ∧
      (live3.slot 3).window.strays < p.strayThreshold ∧ live3.ageOrder 3 = []) ∧
    (((runOf .probation 4).slot 3).state = .probation ∧
      p.probationWindows ≤ min 15 (((runOf .probation 4).slot 3).cleanRun + 1) ∧
      min 15 (((runOf .probation 3).slot 3).cleanRun + 1) < p.probationWindows) ∧
    (((runOf .suspect 2).slot 3).state = .suspect ∧
      p.confirmWindows ≤ min 15 (((runOf .suspect 2).slot 3).cleanRun + 1) ∧
      min 15 (((runOf .suspect 1).slot 3).cleanRun + 1) < p.confirmWindows) ∧
    ((runOf .draining 0).slot 3).state = .draining := by decide +kernel

/-- Slot 3 FENCED with its sources, auto-restore and windows since its probe. -/
def fenced3 (manual verdict restore : Bool) (n : Nat) : State :=
  (withSt live3 3 .fenced).updSlot 3 fun r =>
    { r with
      manual := manual, verdict := verdict, sinceProbe := n,
      config := { r.config with autoRestore := restore } }

theorem test_hyp_CloseOfAFencedSlot :
    (((fenced3 false false true 0).slot 3).state = .fenced ∧
      ((fenced3 false false true 0).slot 3).fencePending = false ∧
      ((fenced3 false false true 0).slot 3).config.autoRestore = true) ∧
    (((fenced3 false true true 8).slot 3).verdict = true ∧
      min 255 (((fenced3 false true true 8).slot 3).sinceProbe + 1) <
        (fenced3 false true true 8).engine.recoveryPeriod ∧
      (fenced3 false true true 9).engine.recoveryPeriod ≤
        min 255 (((fenced3 false true true 9).slot 3).sinceProbe + 1)) ∧
    (((fenced3 true false true 0).slot 3).manual = true ∧
      ((fenced3 false true false 0).slot 3).config.autoRestore = false) := by decide +kernel

/-- Each state that has a window close; a fence pending; a clean run that promotes and one that does not. -/
theorem test_hyp_StepsTwoToNineOfAWindowClose :
    let u (s : State) : SlotRecord := (s.closeStep1 3 0).slot 3
    let run (s : State) : Nat := if (u s).adverse = true then 0 else min 15 ((u s).cleanRun + 1)
    ((live3.slot 3).state.accepting = true ∧ ((runOf .draining 0).slot 3).state = .draining ∧
      ((fenced3 true true true 0).slot 3).state = .fenced) ∧
    (let s := (runOf .live 0).updSlot 3 fun r => { r with fencePending := true }
     (s.slot 3).state.accepting = true ∧ (u s).fencePending = true) ∧
    ((u (runOf .probation 4)).fencePending = false ∧ (u (runOf .probation 4)).state = .probation ∧
      (live3.policySet 3).probationWindows ≤ run (runOf .probation 4) ∧
      run (runOf .probation 3) < (live3.policySet 3).probationWindows) ∧
    ((u (runOf .suspect 2)).fencePending = false ∧ (u (runOf .suspect 2)).state = .suspect ∧
      (live3.policySet 3).confirmWindows ≤ run (runOf .suspect 2) ∧
      run (runOf .suspect 1) < (live3.policySet 3).confirmWindows) ∧
    ((u live3).fencePending = false ∧ (u live3).state ≠ .probation ∧ (u live3).state ≠ .suspect) := by
  decide +kernel

theorem test_hyp_AgeOrderAndOldestAge :
    live3.ageOrder 3 = [] ∧ (live3.addEntry ent).ageOrder 3 = ent :: [] ∧
    (ent.slot = 3 ∧ ent.kind = .request) ∧ ¬ (twinEnt.slot = 3 ∧ twinEnt.kind = .request) := by
  decide +kernel

/-- The policy of every kind in set 0. -/
def underPolicy (s : State) (p : Policy) : State :=
  { s with policy := { s.policy with
      active := s.policy.active.set 0 { PolicySet.default with policies := .all p } } }

theorem test_hyp_RaisedVerdict :
    ((underPolicy live3 .off).policySet 3).policies.get .stall = .off ∧
    (((underPolicy (withSt wit 3 .fenced) .fence).policySet 3).policies.get .probeFail ≠ .off ∧
      ((underPolicy (withSt wit 3 .fenced) .fence).slot 3).state.accepting = false) ∧
    ((underPolicy live3 .report).policySet 3).policies.get .stall = .report ∧
    (((underPolicy live3 .confirm).policySet 3).policies.get .stall = .confirm ∧
      ((underPolicy live3 .confirm).slot 3).state = .live) ∧
    (((underPolicy live3 .fence).policySet 3).policies.get .stall = .fence ∧
      ((underPolicy live3 .fence).slot 3).state.accepting = true ∧
      ((underPolicy live3 .fence).slot 3).config.gate = .immediate) ∧
    ((withSt wit 3 .suspect).slot 3).state = .suspect ∧
    ((live3.updSlot 3 fun r => { r with config := { r.config with gate := .boundary } }).slot 3).config.gate
      = .boundary := by decide +kernel

/-! ### Fencing, and the agreement of table and slots -/

theorem consistent_of_requests (s : State) (keys : (s.table.map Entry.key).Nodup)
    (counts : ∀ i, (s.slot i).requestCount = (s.ageOrder i).length)
    (requests : ∀ e ∈ s.table, e.kind = .request) (flags : ∀ i, (s.slot i).probeEntry = false)
    (partners : ∀ e ∈ s.table, (e.partner.map EntryKey.slot) ≠ some e.slot)
    (idle : ∀ i, (s.slot i).state.unwatched = true ∨ (s.slot i).state = .fenced →
      (s.slot i).requestCount = 0)
    (twins : ∀ i, (s.slot i).config.twin ≠ some i) : s.TableConsistent where
  keys := keys
  counts := counts
  probes i := by
    constructor
    · intro h; rw [flags i] at h; cases h
    · rintro ⟨e, he, _, hk⟩; rw [requests e he] at hk; cases hk
  inFlight e he hk := by rw [requests e he] at hk; cases hk
  partners e he k hk h := partners e he (by rw [hk, Option.map_some, h])
  idle := idle
  unwatched i _ := flags i
  twins := twins

/-- The twin of slot 3 DRAINING, its one entry HELD. -/
def drainingTwin : State := withSt (pairOf .held) 4 .draining

/-- A twin pair in the table, its partner entry OPEN or HELD; the partner's drain that ends, and, in LIVE,
none. -/
theorem test_hyp_EntryIntoFenced :
    (pairOf .opened).TableConsistent ∧ (pairOf .held).TableConsistent ∧ drainingTwin.TableConsistent ∧
    ((drainingTwin.slot 4).state = .draining ∧ (drainingTwin.slot 4).fencePending = false ∧
      (drainingTwin.slot 4).probeEntry = false ∧ (drainingTwin.enterFenced 3).ageOrder 4 = [] ∧
      ∃ e ∈ drainingTwin.table, e.slot = 4 ∧ e.kind = .request ∧ e.state = .held ∧
        ∃ x ∈ drainingTwin.ageOrder 3, x.partner = some e.key) ∧
    ((pairOf .held).slot 4).state ≠ .draining ∧
    (∃ e ∈ (pairOf .opened).table, e.kind = .request ∧ e.slot ≠ 3 ∧ e.state ≠ .held ∧
      ∃ x ∈ (pairOf .opened).ageOrder 3, x.partner = some e.key) ∧
    (∃ e ∈ (pairOf .held).table, e.kind = .request ∧ e.slot ≠ 3 ∧ e.state = .held ∧
      ∃ x ∈ (pairOf .held).ageOrder 3, x.partner = some e.key) ∧
    (∃ e ∈ (twins twinEnt).table, e.kind = .request ∧ e.slot ≠ 3 ∧
      ∀ x ∈ (twins twinEnt).ageOrder 3, x.partner ≠ some e.key) ∧
    (wit.ageOrder 3).length = 0 ∧ ((pairOf .opened).ageOrder 3).length ≠ 0 ∧
    ((pairOf .opened).enterFenced 3).report.outbox.length < 32 := by
  refine ⟨consistent_of_requests _ ?_ ?_ ?_ ?_ ?_ ?_ ?_, consistent_of_requests _ ?_ ?_ ?_ ?_ ?_ ?_ ?_,
    consistent_of_requests _ ?_ ?_ ?_ ?_ ?_ ?_ ?_, ?_⟩ <;> decide +kernel

/-- The invariants' premises, at a twin pair in the table and at reset. -/
theorem test_hyp_invariants :
    (pairOf .opened).TableConsistent ∧ (pairOf .opened).QuietOutsideWatching ∧ (pairOf .opened).WithinCapacity ∧
    State.reset.QuietOutsideWatching ∧ State.reset.WithinCapacity := by
  refine ⟨test_hyp_EntryIntoFenced.1, ⟨?_, ?_, ?_, ?_⟩, ⟨?_, ?_, ?_, ?_, ?_, ?_, ?_, ?_⟩,
    ⟨?_, ?_, ?_, ?_⟩, ⟨?_, ?_, ?_, ?_, ?_, ?_, ?_, ?_⟩⟩ <;> decide +kernel

/-! ### Management commands -/

/-- A copy that no monitor's class takes, or of a wrong length, and an unassigned code. -/
theorem test_hyp_CommandChecks :
    ((copy wit [0x0E, 0x43] .group).Holds 0x0E [0x43] 7 .group ∧
      (copy wit [0x01, 1] .own).Holds 0x01 [1] 7 .own ∧
      (copy wit [0x0E] .own).Holds 0x0E [] 7 .own ∧ (copy wit [0x03, 0] .all).Holds 0x03 [0] 7 .all) ∧
    (copy wit [] .own).mgmt.command = some ⟨[], 7, .own⟩ ∧
    (copy wit [0x1E] .group).mgmt.command = some ⟨[0x1E], 7, .group⟩ ∧ 0x1D < (0x1E : Byte).toNat ∧
    wit.mgmt.replyQueue.length < 4 ∧ wit.trunk.endStrap = false :=
  ⟨⟨holds_copy wit _ _ _ (by decide) (by decide), holds_copy wit _ _ _ (by decide) (by decide),
    holds_copy wit _ _ _ (by decide) (by decide), holds_copy wit _ _ _ (by decide) (by decide)⟩,
    rfl, rfl, by decide, by decide, rfl⟩

/-- The end-of-chain monitor. -/
def ending (m : Mode) : State := { witIn m with trunk := { wit.trunk with endStrap := true } }

theorem test_hyp_end_of_chain :
    (∀ ps, (copy (ending .watching) (0x01 :: ps) .all).mgmt.command = some ⟨0x01 :: ps, 7, .all⟩) ∧
    (copy (ending .watching) [0x1D] .all).mgmt.command = some ⟨[0x1D], 7, .all⟩ ∧
    (ending .watching).trunk.endStrap = true ∧ (ending .watching).mgmt.mode ≠ .starting ∧
    (ending .watching).mgmt.replyQueue.length < 4 ∧ (ending .transparent).mgmt.mode ≠ .watching :=
  ⟨fun _ => rfl, rfl, rfl, by decide, by decide, by decide⟩

theorem test_hyp_LaunchAndCancelOfAProbe :
    live3.table.length < 2048 ∧
    wit.engine.inFlight = none ∧ probing.engine.inFlight = some ⟨3, 0x43, 9, .command, 0⟩ ∧
    probing.findEntry 3 9 = some { ent with kind := .probe } := by decide +kernel

/-- A copy of any command in a monitor of any mode but STARTING. -/
theorem test_hyp_commands_by_mode (m : Mode) (started : m ≠ .starting) (code : Byte)
    (params : List Byte) (how : Addressing) :
    (copy (witIn m) (code :: params) how).Holds code params 7 how ∧
    (copy (witIn m) (code :: params) how).mgmt.mode = m :=
  ⟨holds_copy (witIn m) code params how started (show wit.mgmt.replyQueue.length < 4 by decide), rfl⟩

/-- The numbers at the edges of SET_RANGE and SET_GROUPS. -/
theorem test_hyp_SetRangeAndSetGroups :
    (224 : Byte).toNat ≤ 224 ∧ 224 < (225 : Byte).toNat ∧ (15 : Byte).toNat < 16 ∧
    16 ≤ (16 : Byte).toNat := by decide

/-- A running claim timer in UNCLAIMED, and a PARKED slot that CLAIM admits. -/
def unclaimed : State :=
  { (withSt (witIn .unclaimed) 3 .parked).updSlot 3 fun r =>
      { r with config := { r.config with autoAdmit := true } } with
    mgmt := { (witIn .unclaimed).mgmt with claimTimer := some ⟨50, 250000000⟩ } }

theorem test_hyp_ClaimAndItsTimeout :
    (unclaimed.mgmt.mode = .unclaimed ∧ unclaimed.mgmt.claimTimer = some ⟨50, 250000000⟩ ∧
      50 * 5000000 ≤ 250000000) ∧
    ((claiming 249999999).mgmt.claimTimer = some ⟨50, 249999999⟩ ∧ 249999999 < 50 * 5000000) ∧
    (witIn .unclaimed).mgmt.claimTimer = none ∧ (witIn .transparent).mgmt.mode ≠ .unclaimed ∧
    ((unclaimed.slot 3).state = .parked ∧ (unclaimed.slot 3).config.autoAdmit = true) ∧
    unclaimed.report.outbox.length + 1 + ((List.finRange 32).filter fun i =>
      decide ((unclaimed.slot i).state = .parked) && (unclaimed.slot i).config.autoAdmit).length ≤ 32 := by
  decide +kernel

theorem test_hyp_Release :
    ((withSt wit 3 .fenced).mgmt.mode = .watching ∧ ((withSt wit 3 .fenced).slot 3).state = .fenced) ∧
    (live3.mgmt.mode = .watching ∧ ∀ i, (live3.slot i).state ≠ .fenced ∧
      (live3.slot i).state ≠ .draining ∧ (live3.slot i).fencePending = false) ∧
    (live3.report.outbox.length +
      ((List.finRange 32).filter fun i => (live3.slot i).state.accepting).length + 1 ≤ 32) ∧
    probing.engine.inFlight ≠ none := by decide +kernel

/-- A watching monitor whose 32 slots are in one state. -/
def allIn (st : SlotState) : State := wit.updAllSlots fun r => { r with state := st }

theorem test_hyp_SoftReset :
    ((List.finRange 32).filter fun i => decide ((live3.slot i).state = .live)).length ≤ 31 ∧
    ((List.finRange 32).filter fun i => decide (((allIn .live).slot i).state = .live)).length = 32 ∧
    (live3.engine.inFlight = none ∧ probing.engine.inFlight ≠ none) := by decide +kernel

/-- The parameters of a SET_TIMING within the ranges, and three that are not. -/
theorem test_hyp_SetTiming :
    ((0x01 : Byte).toNat * 256 + (0xF4 : Byte).toNat = 500 ∧
      (0x13 : Byte).toNat * 256 + (0x88 : Byte).toNat = 5000 ∧
      (0 : Byte).toNat * 256 + (50 : Byte).toNat = 50) ∧
    (10 ≤ (0 : Byte).toNat * 256 + (10 : Byte).toNat ∧
      ¬ 10 ≤ (0 : Byte).toNat * 256 + (9 : Byte).toNat) ∧
    ((15 : Byte).toNat < 16 ∧ ¬ (16 : Byte).toNat < 16) ∧ ((7 : Byte).toNat < 8 ∧ ¬ (8 : Byte).toNat < 8) ∧
    wit.time.divider = 500 ∧ (500 : Nat) ≠ 5000 := by decide

theorem test_hyp_ProfilesAndPolicySets :
    ((15 : Byte).toNat < 16 ∧ 15 < (16 : Byte).toNat) ∧
    ((0 : Byte).toNat * 256 + (1 : Byte).toNat ≠ 0 ∧ (0 : Byte).toNat * 256 + (0 : Byte).toNat = 0) ∧
    ((1 : Byte).toNat ≤ 1 ∧ 1 < (2 : Byte).toNat) ∧ ((3 : Byte).toNat < 4 ∧ 3 < (4 : Byte).toNat) ∧
    (∀ p ∈ [(0 : Byte), 1, 2, 3, 3, 2, 1], p.toNat < 4) ∧
    ((15 : Byte) ≠ 0 ∧ (15 : Byte).toNat ≤ 15 ∧ ¬ (16 : Byte).toNat ≤ 15) := by decide

/-! ### Slot commands and probes -/

/-- Whatever a clause asks of the record of the slot that a command addresses, a monitor that holds that
command's copy has it: any record may stand in slot 3 of `wit`. -/
theorem test_hyp_slot_commands (r : SlotRecord) (code : Byte) (params : List Byte) :
    let s := copy (wit.setSlot 3 r) (code :: params) .own
    s.Holds code params 7 .own ∧ s.Addresses 0x43 3 ∧ s.mgmt.mode = .watching ∧ s.slot 3 = r :=
  ⟨holds_copy (wit.setSlot 3 r) code params .own (show wit.mgmt.mode ≠ .starting by decide)
      (show wit.mgmt.replyQueue.length < 4 by decide), rfl, rfl,
    Vector.getElem_set_self _⟩

theorem test_hyp_SlotAddressOutsideTheRange :
    (copy wit [0x0E, 0x60] .own).Holds 0x0E [0x60] 7 .own ∧ wit.OutsideRange 0x60 ∧
    wit.OutsideRange 0x3F ∧ (copy wit (0x15 :: 0x60 :: List.replicate 15 0) .own).Holds 0x15
      (0x60 :: List.replicate 15 0) 7 .own ∧ (List.replicate 15 (0 : Byte)).length = 15 :=
  ⟨holds_copy wit _ _ _ (by decide) (by decide), by decide, by decide,
    holds_copy wit _ _ _ (by decide) (by decide), rfl⟩

theorem test_hyp_AdmitAndPark :
    ((wit.slot 3).state = .vacant ∧ ((withSt wit 3 .parked).slot 3).state = .parked ∧
      (live3.slot 3).state ≠ .vacant ∧ (live3.slot 3).state ≠ .parked) ∧
    ((live3.slot 3).requestCount = 0 ∧ (live3.slot 3).probeEntry = false ∧
      (live3.slot 3).fencePending = false) ∧
    (((live3.addEntry ent).slot 3).requestCount ≠ 0 ∧ (probing.slot 3).probeEntry = true) ∧
    (((withSt probing 3 .fenced).slot 3).state = .fenced ∧
      ((withSt probing 3 .fenced).slot 3).probeEntry = true ∧
      ((withSt wit 3 .fenced).slot 3).probeEntry = false) := by decide +kernel

/-- Slot 3 in a state with a fence pending. -/
def fencing (st : SlotState) : State :=
  (withSt live3 3 st).updSlot 3 fun r => { r with fencePending := true }

theorem test_hyp_FenceAndUnfence :
    ((live3.slot 3).config.gate = .immediate ∧ (live3.slot 3).state.accepting = true) ∧
    (((fencing .live).slot 3).state.accepting = true ∧ ((fencing .live).slot 3).fencePending = true) ∧
    (((fencing .draining).slot 3).state = .draining ∧ ((fencing .draining).slot 3).requestCount = 0 ∧
      ((fencing .draining).slot 3).probeEntry = false) ∧
    (((fencing .draining).addEntry ent).slot 3).requestCount ≠ 0 ∧
    ((withSt live3 3 .draining).slot 3).fencePending = false := by decide +kernel

theorem test_hyp_Vacate :
    (((withSt live3 3 .parked).slot 3).requestCount = 0 ∧
      ((withSt live3 3 .parked).slot 3).probeEntry = false) ∧
    ((withSt probing 3 .fenced).slot 3).probeEntry = true ∧
    ((wit.slot 3).state = .vacant ∧ (wit.slot 3).requestCount = 0) ∧
    (((twins twinEnt).slot 3).config.twin = some 4 ∧ (wit.slot 3).config.twin = none) := by
  decide +kernel

theorem test_hyp_PairAndUnpair :
    ((copy wit [0x13, 0x43, 0x5F] .own).Holds 0x13 [0x43, 0x5F] 7 .own ∧ wit.Addresses 0x43 3 ∧
      wit.Addresses 0x5F 31) ∧
    ((wit.slot 3).state = .vacant ∧ (wit.slot 3).config.twin = none ∧ (live3.slot 3).state = .live) ∧
    (((withSt (twins twinEnt) 3 .parked).slot 3).config.twin = some 4 ∧
      ((twins twinEnt).slot 4).state = .live ∧
      ((withSt (withSt (twins twinEnt) 3 .parked) 4 .vacant).slot 4).state = .vacant) :=
  ⟨⟨holds_copy wit _ _ _ (by decide) (by decide), by decide, by decide⟩, by decide +kernel,
    by decide +kernel⟩

theorem test_hyp_ConfigureSlot :
    ((copy wit [0x15, 0x43, 64, 4, 4, 3, 1, 1, 16, 1, 0x44, 1, 0, 0, 0, 1, 1] .own).Holds 0x15
      [0x43, 64, 4, 4, 3, 1, 1, 16, 1, 0x44, 1, 0, 0, 0, 1, 1] 7 .own) ∧
    ((64 : Byte) ≠ 0 ∧ (4 : Byte).toNat ≤ (64 : Byte).toNat ∧ (3 : Byte).toNat < 4 ∧ (16 : Byte) = 16 ∧
      wit.Addresses 0x44 4 ∧ (4 : SlotIndex) ≠ 3) ∧
    (¬ (65 : Byte).toNat ≤ (64 : Byte).toNat ∧ ¬ (4 : Byte).toNat < 4 ∧ ¬ (2 : Byte).toNat ≤ 1) :=
  ⟨holds_copy wit _ _ _ (by decide) (by decide), by decide, by decide⟩

theorem test_hyp_SlotStatusAndReadSample :
    (wit.slot 3).latency = [] ∧
    ((wit.updSlot 3 fun r => { r with latency := [⟨5, 1, false⟩] }).slot 3).latency =
      ⟨5, 1, false⟩ :: [] := by decide +kernel

theorem test_hyp_ProbeCommand :
    ((witIn .unclaimed).mgmt.mode ≠ .watching ∧ (wit.slot 3).state.accepting = false ∧
      (wit.slot 3).state ≠ .fenced) ∧
    (live3.mgmt.mode = .watching ∧ (live3.slot 3).state.accepting = true ∧
      live3.engine.inFlight = none ∧ live3.table.length < 2048 ∧
      live3.findEntry 3 (live3.engine.marker ++ live3.mgmt.chain ++ live3.engine.seq) = none) ∧
    probing.engine.inFlight ≠ none ∧ 2048 ≤ fullTable.table.length := by decide +kernel

/-- Requests in the set: of slot 3, and of slot 31 just after the service pointer's wrap. -/
def requested (a b : Option ProbeOrigin) : State :=
  { live3 with engine := { live3.engine with
      requests := (live3.engine.requests.set 3 a).set 31 b } }

theorem test_hyp_ServiceOfTheRequestSet :
    ((requested (some .quiet) (some .recovery)).engine.inFlight = none ∧
      (requested (some .quiet) (some .recovery)).mgmt.mode = .watching ∧
      (requested (some .quiet) (some .recovery)).table.length < 2048 ∧
      (requested (some .quiet) (some .recovery)).request? 3 = some .quiet ∧
      ((requested (some .quiet) (some .recovery)).slot 3).state = .live) ∧
    ((requested none (some .recovery)).request? 31 = some .recovery ∧
      ((requested none (some .recovery)).slot 31).state ≠ .fenced ∧
      ∀ i, i ≠ 31 → (requested none (some .recovery)).request? i = none) := by decide +kernel

theorem test_hyp_StoreAndItsCompletion :
    wit.store.writing = none ∧ writing.store.writing = some StoredItems.default ∧
    StoredItems.default.inRange = true := by decide +kernel

/-! ### Worked commands -/

/-- A frame is taken at UP into an entry of slot 3 (R46): the table, the count, the arrival. -/
theorem test_admission :
    ∃ t, exec .takeUpFrame (up live3 (fr 1 1 0x43 9 [])) = .next t ∧ t.table.length = 1 ∧
      (t.slot 3).requestCount = 1 ∧ (t.slot 3).window.arrivals = 1 ∧ t.trunk.upStage = none :=
  ⟨_, rfl, by decide +kernel⟩

/-- The loss of an entry (R57) is counted and listed. -/
theorem test_loss :
    ∃ t, exec (.entryLoss 3 9) (atTick (live3.addEntry { ent with state := .overdue }) 30) = .next t ∧
      t.table = [] ∧ (t.slot 3).requestCount = 0 ∧ (t.slot 3).window.losts = 1 ∧
      (t.slot 3).lostTags = [9] :=
  ⟨_, rfl, by decide +kernel⟩

/-- ADMIT of a VACANT slot (R92) with its reply. -/
theorem test_admit :
    ∃ t, exec .admitSlot (copy wit [0x0E, 0x43] .own) = .next t ∧ (t.slot 3).state = .probation ∧
      t.mgmt.command = none ∧ (t.mgmt.replyQueue.map Frame.payload) = [[0x0E, 0]] ∧
      t.report.outbox = [⟨.slotState 0x43 .vacant .probation .command, 2⟩] :=
  ⟨_, rfl, by decide +kernel⟩

/-- STARTING ends with the defaults (R201, R202), UNCLAIMED, and the ARRIVAL alert. -/
theorem test_start :
    ∃ t, exec (.storeLoadComplete ⟨false, true, false⟩) State.reset = .next t ∧ t.mgmt.mode = .unclaimed ∧
      t.mgmt.flags.storeBad = true ∧ t.trunk.upDiscard = true ∧
      t.report.outbox = [⟨.arrival .power .unclaimed 0 .defaulted 1, 0⟩] :=
  ⟨_, rfl, by decide +kernel⟩

/-- The end of a frame begun in STARTING is discarded uncounted (R6); the next bad one counts. -/
theorem test_discard :
    exec (.frameComplete .up []) arriving = .next (arriving.endDiscard .up) ∧
    exec (.frameOverrun .up) (arriving.endDiscard .up) = .next ((arriving.endDiscard .up).countBad .up) :=
  ⟨rfl, rfl⟩

/-- MARK held high is one edge (R29): the commit of the first sample, and none of the second. -/
theorem test_mark_held_high :
    exec (.markEdge true ⟨[], false⟩) (marked wit ⟨true, false, false⟩) =
      .next ((marked wit ⟨true, false, false⟩).sampleMark true).commitTables ∧
    exec (.markEdge true ⟨[], false⟩) ((marked wit ⟨true, false, false⟩).sampleMark true) =
      .next ((marked wit ⟨true, false, false⟩).sampleMark true) :=
  ⟨rfl, rfl⟩

/-- A RESET in UNCLAIMED withdraws an expired claim timeout (R205). -/
theorem test_reset_restarts_the_claim_timer :
    (∃ t, exec .claimTimeout unclaimed = .next t ∧ t.mgmt.mode = .transparent) ∧
    ∃ t, exec .claimTimeout unclaimed.softReset = .next t ∧ t.mgmt.mode = .unclaimed :=
  ⟨⟨_, rfl, by decide +kernel⟩, ⟨_, rfl, by decide +kernel⟩⟩

/-- A launch passes over the sequence number whose tag is a key of the slot (R35). -/
theorem test_launch_takes_a_free_tag :
    (live3.addEntry { ent with tag := live3.tagOf 0 }).launchSeq 3 = 1 ∧ live3.launchSeq 3 = 0 := by
  decide +kernel

/-- A drain that ends with the fencing of the twin (R63, R83, R95). -/
theorem test_fencing_ends_a_drain :
    (drainingTwin.enterFenced 3).slot 4 = { drainingTwin.slot 4 with
      requestCount := 0, state := .parked, lostTags := [] } := by decide +kernel

/-- The ALR payload of a VERDICT record with partner and tag (R175), byte for byte. -/
theorem test_alr_payload :
    (OutboxRecord.frame ⟨.verdict 0x43 .diverge .confirm .fenced 0x0102 (some 0x44) (some 0x0A0B0C0D) 9,
      2⟩) = mkFrame 6 0 0x02 0 [3, 0x43, 4, 2, 6, 1, 2, 3, 0x44, 0x0A, 0x0B, 0x0C, 0x0D, 9] := by
  decide +kernel

/-- FENCE and a verdict acting as VERDICT set (R138): the verdict first under IMMEDIATE, and either order under
BOUNDARY. Both sources are set, and one fence entry is made or is pending. -/
theorem test_fence_and_verdict_in_either_order :
    let verdict (s : State) := s.raiseVerdict 3 .stall 0 none none
    let gated := live3.updSlot 3 fun r => { r with config := { r.config with gate := .boundary } }
    let fields (s : State) :=
      ((s.slot 3).state, (s.slot 3).manual, (s.slot 3).verdict, (s.slot 3).fencePending)
    fields ((verdict (underPolicy live3 .fence)).setManual 3) = (.fenced, true, true, false) ∧
    fields ((verdict (underPolicy gated .fence)).setManual 3) = (.live, true, true, true) ∧
    fields (verdict ((underPolicy gated .fence).setManual 3)) = (.live, true, true, true) := by
  decide +kernel

/-- The fields of PROBE_RESULT with a probe in flight and no earlier one (R155, R198), byte for byte. -/
theorem test_probe_result_fields :
    (atTick probing 0x0102).probeFigures =
      [1, 1, 0x43, 1, 0, 0, 0, 9, 1, 0, 1, 1, 2, 0, 0, 0, 0, 0, 0, 0, 0, 0, 0, 0, 0, 0, 0, 0, 0, 0, 0, 0, 0,
        0, 0, 0, 0] := by decide +kernel

/-! ### Events that do not occur -/

/-- A full reply queue. -/
def fourReplies (s : State) : State :=
  { s with mgmt := { s.mgmt with replyQueue := List.replicate 4 (fr 5 0 2 7 [2, 0]) } }

/-- The end-of-chain monitor. -/
def lastInChain : State := { wit with trunk := { wit.trunk with endStrap := true } }

/-- No frame is taken: STARTING, an empty stage, a full through buffer; no copy is executed: none in the buffer,
another one, a full reply queue, an all-addressed one at the end of the chain among them. -/
theorem test_hyp_EveryCommandAnswersAndKeepsTheQueue :
    (State.reset.mgmt.mode = .starting ∧ wit.trunk.upStage = none ∧ wit.trunk.downStage = none ∧
      8 ≤ (buffered 8).trunk.descBuffer.length ∧ 8 ≤ (buffered 8).trunk.ascBuffer.length) ∧
    (wit.mgmt.command = none ∧
      ((copy wit [0x02] .own).mgmt.command.bind fun c => c.payload.head?) = some 0x02 ∧
      (0x02 : Byte) ≠ 0x03) ∧
    (4 ≤ (fourReplies (copy wit [0x02] .own)).mgmt.replyQueue.length ∧
      (fourReplies (copy wit [0x02] .own)).mgmt.command = some ⟨[0x02], 7, .own⟩) ∧
    ((fourReplies (copy lastInChain [0x1D] .all)).mgmt.command = some ⟨[0x1D], 7, .all⟩ ∧
      (fourReplies (copy lastInChain [0x1D] .all)).trunk.endStrap = true) := by
  decide +kernel

/-- Deadline, loss, expiry, probe deadline and boundary that are not due: entry not there, another tick, another
state; engine IDLE; a window counter one below the length. -/
theorem test_hyp_events_not_due :
    live3.findEntry 3 9 = none ∧
    ((atTick (live3.addEntry { ent with state := .held }) 30).findEntry 3 9 =
      some { ent with state := .held } ∧
      ({ ent with state := .held } : Entry).twinExpiry ≠ some (30 : Tick)) ∧
    (ent.state = .opened ∧ ent.loss ≠ ent.deadline ∧ ent.loss ≠ (atTick live3 29).time.tick) ∧
    (live3.engine.inFlight = none ∧ probing.engine.inFlight = some ⟨3, 0x43, 9, .command, 0⟩ ∧
      probing.findEntry 3 9 = some { ent with kind := .probe } ∧
      ({ ent with kind := .probe } : Entry).deadline ≠ (atTick probing 19).time.tick) ∧
    (timed live3 9999 0 0).time.windowCounter < (timed live3 9999 0 0).time.activeLength := by
  decide +kernel

/-- A RESET that changes all 32 slots loses the last SLOT_STATE alert (R116). -/
theorem test_reset_of_32_slots :
    (allIn .live).softReset.report.outbox.length = 32 ∧ (allIn .live).softReset.report.lostCount = 1 ∧
    (allIn .live).softReset.mgmt.flags.outboxLost = true := by decide +kernel

end Sys2Proof.Tests
end

namespace Sys2Proof.Machine

/-!
SUPPORT. What every operation keeps: the queue of commands that wait, and the capacities of 00_scope.md. Each
operation relates its states by `BoundedWork`; the operations that let a list grow say which room they need.
-/

/-! ### What an operation keeps -/

/-- The two lists of a slot record are within their capacities (R60, R105). -/
structure SlotRecord.ListsFit (r : SlotRecord) : Prop where
  latency : r.latency.length ≤ Config.latencyCapacity
  lostTags : r.lostTags.length ≤ Config.lostTagCapacity

/-- The queue of commands, and every list that a capacity bounds. -/
def State.lists (s : State) :=
  (s.pending, s.trunk.descBuffer, s.trunk.ascBuffer, s.report.outbox, s.report.bounceQueue,
    s.mgmt.replyQueue, s.table, s.slots)

/-- From `s` to `t` the waiting commands stand, and no capacity is exceeded that `s` met. -/
structure BoundedStep (s t : State) : Prop where
  pending : t.pending = s.pending
  capacity : s.WithinCapacity → t.WithinCapacity

/-- As `BoundedStep`, with no reply placed: what the effect of a management command may be, which is
taken before the reply that has its room already (R181, R182). -/
structure BoundedWork (s t : State) : Prop extends BoundedStep s t where
  reply : t.mgmt.replyQueue.length ≤ s.mgmt.replyQueue.length

/-! ### The lists of a slot record -/

/-- A tag pushed onto a lost-tag list keeps it within its capacity (R60). -/
theorem length_pushLostTag {l : List Tag} (t : Tag) (h : l.length ≤ Config.lostTagCapacity) :
    (pushLostTag l t).length ≤ Config.lostTagCapacity := by
  unfold pushLostTag
  split
  · rename_i mem
    have kept := List.length_erase_of_mem mem
    have := List.length_pos_of_mem mem
    simp only [List.length_append, List.length_singleton]
    omega
  · split
    · simp only [List.length_append, List.length_singleton]
      omega
    · rename_i full
      simp only [List.length_append, List.length_drop, List.length_singleton]
      have := (show 0 < Config.lostTagCapacity by decide)
      omega

/-- A captured sample never takes the latency FIFO past its capacity (R105). -/
theorem SlotRecord.ListsFit.sampleLatency {r : SlotRecord} (x : Sample) (h : r.ListsFit) :
    (r.sampleLatency x).ListsFit := by
  unfold SlotRecord.sampleLatency
  split
  · unfold SlotRecord.pushSample
    split
    · rename_i room
      exact ⟨by simpa using room, h.lostTags⟩
    · exact ⟨h.latency, h.lostTags⟩
  · exact ⟨h.latency, h.lostTags⟩

namespace BoundedWork

/-- An operation that leaves every list, and the queue, as it was. -/
theorem same {s t : State} (h : t.lists = s.lists) : BoundedWork s t := by
  simp only [State.lists, Prod.mk.injEq] at h
  obtain ⟨pending, desc, asc, outbox, bounce, reply, table, slots⟩ := h
  have slot : ∀ i, t.slot i = s.slot i := fun i => by rw [State.slot, State.slot, slots]
  exact
    { pending := pending
      reply := reply ▸ Nat.le_refl _
      capacity := fun h =>
        { desc := desc ▸ h.desc
          asc := asc ▸ h.asc
          outbox := outbox ▸ h.outbox
          bounce := bounce ▸ h.bounce
          reply := reply ▸ h.reply
          table := table ▸ h.table
          latency := fun i => slot i ▸ h.latency i
          lostTags := fun i => slot i ▸ h.lostTags i } }

theorem refl (s : State) : BoundedWork s s := same rfl

theorem trans {s t u : State} (a : BoundedWork s t) (b : BoundedWork t u) : BoundedWork s u where
  pending := b.pending.trans a.pending
  capacity h := b.capacity (a.capacity h)
  reply := b.reply.trans a.reply

theorem foldl {α : Type} (f : State → α → State) (h : ∀ s a, BoundedWork s (f s a)) (l : List α)
    (s : State) : BoundedWork s (l.foldl f s) := by
  induction l generalizing s with
  | nil => exact refl s
  | cons a l ih => exact (h s a).trans (ih _)

/-! ### Slots and alerts -/

theorem queueAlert (s : State) (r : AlertRecord) : BoundedWork s (s.queueAlert r) where
  pending := s.queueAlert_pending r
  reply := by simp
  capacity h :=
    { desc := by simpa using h.desc
      asc := by simpa using h.asc
      outbox := s.queueAlert_outbox_le r h.outbox
      bounce := by simpa using h.bounce
      reply := by simpa using h.reply
      table := by simpa using h.table
      latency := fun i => by simpa using h.latency i
      lostTags := fun i => by simpa using h.lostTags i }

theorem setSlot (s : State) (i : SlotIndex) (r : SlotRecord)
    (fit : (s.slot i).ListsFit → r.ListsFit) : BoundedWork s (s.setSlot i r) where
  pending := rfl
  reply := Nat.le_refl _
  capacity h := by
    have fits : ∀ j, ((s.setSlot i r).slot j).ListsFit := fun j => by
      rw [State.slot_setSlot]
      split
      · exact fit ⟨h.latency i, h.lostTags i⟩
      · exact ⟨h.latency j, h.lostTags j⟩
    exact { h with latency := fun j => (fits j).latency, lostTags := fun j => (fits j).lostTags }

theorem updSlot (s : State) (i : SlotIndex) (f : SlotRecord → SlotRecord)
    (fit : ∀ r, r.ListsFit → (f r).ListsFit) : BoundedWork s (s.updSlot i f) :=
  setSlot s i _ (fit _)

/-- A change of a slot record that leaves its two lists alone. -/
theorem updFields (s : State) (i : SlotIndex) (f : SlotRecord → SlotRecord)
    (kept : ∀ r, (f r).latency = r.latency ∧ (f r).lostTags = r.lostTags) :
    BoundedWork s (s.updSlot i f) :=
  updSlot s i f fun r h => ⟨(kept r).1.symm ▸ h.latency, (kept r).2.symm ▸ h.lostTags⟩

/-- A table that does not grow. -/
theorem setTable (s : State) (l : List Entry) (h : l.length ≤ s.table.length) :
    BoundedWork s { s with table := l } :=
  ⟨⟨rfl, fun hs => { hs with table := h.trans hs.table }⟩, Nat.le_refl _⟩

theorem setFlags (s : State) (f : MonitorFlags → MonitorFlags) : BoundedWork s (s.setFlags f) := same rfl

theorem credit (s : State) (i : SlotIndex) (c : CounterName) : BoundedWork s (s.credit i c) :=
  updFields s i _ fun _ => ⟨rfl, rfl⟩

theorem changeState (s : State) (i : SlotIndex) (new : SlotState) (cause : SlotCause) :
    BoundedWork s (s.changeState i new cause) :=
  (updFields s i (fun r => { r with state := new }) fun _ => ⟨rfl, rfl⟩).trans (queueAlert _ _)

theorem changeMode (s : State) (new : Mode) : BoundedWork s (s.changeMode new) :=
  (same (s := s) (t := { s with mgmt := { s.mgmt with mode := new } }) rfl).trans (queueAlert _ _)

theorem enterProbation (s : State) (i : SlotIndex) (cause : SlotCause) :
    BoundedWork s (s.enterProbation i cause) :=
  (updFields s i SlotRecord.toProbation fun _ => ⟨rfl, rfl⟩).trans (queueAlert _ _)

theorem enterParked (s : State) (i : SlotIndex) (cause : SlotCause) :
    BoundedWork s (s.enterParked i cause) :=
  (updSlot s i SlotRecord.toParked fun _ h => ⟨h.latency, Nat.zero_le _⟩).trans (queueAlert _ _)

theorem settleDrain (s : State) (i : SlotIndex) : BoundedWork s (s.settleDrain i) := by
  unfold State.settleDrain
  split
  · exact enterParked s i .drained
  · exact refl s

/-! ### Entries -/

theorem updEntry (s : State) (k : EntryKey) (f : Entry → Entry) : BoundedWork s (s.updEntry k f) :=
  setTable s _ (s.updEntry_length k f).le

theorem removeEntry (s : State) (e : Entry) : BoundedWork s (s.removeEntry e) := by
  have drop := setTable s (s.table.filter fun x => !decide (x.key = e.key)) (List.length_filter_le _ _)
  refine (drop.trans (updFields _ e.slot (fun r => r.dropEntry e.kind) fun r => ?_)).trans
    (settleDrain _ _)
  cases e.kind <;> exact ⟨rfl, rfl⟩

theorem releasePartner (s : State) (e : Entry) : BoundedWork s (s.releasePartner e) := by
  unfold State.releasePartner
  split
  · exact refl s
  · split
    · exact refl s
    · split
      · exact removeEntry s _
      · exact updEntry s _ _

theorem orphanEntry (s : State) (e : Entry) : BoundedWork s (s.orphanEntry e) :=
  (releasePartner s e).trans (removeEntry _ e)

theorem orphanSlot (s : State) (i : SlotIndex) : BoundedWork s (s.orphanSlot i) :=
  foldl _ orphanEntry _ s

/-- An entry that joins a table with room. -/
theorem addEntry (s : State) (e : Entry) (room : s.table.length < Config.tableCapacity) :
    BoundedWork s (s.addEntry e) := by
  have join : BoundedWork s { s with table := s.table ++ [e] } :=
    { pending := rfl
      reply := Nat.le_refl _
      capacity := fun h => { h with table := by simpa using room } }
  refine join.trans (updFields _ e.slot _ fun r => ?_)
  cases e.kind <;> exact ⟨rfl, rfl⟩

theorem emptyTable (s : State) : BoundedWork s s.emptyTable where
  pending := rfl
  reply := Nat.le_refl _
  capacity h := by
    have slot : ∀ i, s.emptyTable.slot i = (s.slot i).clearEntries := fun i =>
      State.slot_updAllSlots _ _ i
    exact
      { h with
        table := Nat.zero_le _
        latency := fun i => slot i ▸ h.latency i
        lostTags := fun i => slot i ▸ Nat.zero_le _ }

/-! ### Fences and verdicts -/

theorem enterFenced (s : State) (i : SlotIndex) : BoundedWork s (s.enterFenced i) := by
  unfold State.enterFenced
  have fenced := ((updFields s i (fun r => { r with fencePending := false, state := .fenced })
    fun _ => ⟨rfl, rfl⟩).trans (orphanSlot _ i)).trans
    (updFields _ i (fun r => { r with sinceProbe := 0 }) fun _ => ⟨rfl, rfl⟩)
  refine BoundedWork.trans ?_ (queueAlert _ _)
  split
  · exact fenced
  · exact fenced.trans (queueAlert _ _)

theorem gateEffect (s : State) (i : SlotIndex) : BoundedWork s (s.gateEffect i) := by
  unfold State.gateEffect
  split
  · split
    · exact enterFenced s i
    · exact updFields s i _ fun _ => ⟨rfl, rfl⟩
  · exact refl s

theorem setManual (s : State) (i : SlotIndex) : BoundedWork s (s.setManual i) :=
  (updFields s i (fun r => { r with manual := true }) fun _ => ⟨rfl, rfl⟩).trans (gateEffect _ i)

theorem setVerdict (s : State) (i : SlotIndex) : BoundedWork s (s.setVerdict i) :=
  (updFields s i (fun r => { r with verdict := true }) fun _ => ⟨rfl, rfl⟩).trans (gateEffect _ i)

theorem submitVerdict (s : State) (i : SlotIndex) (k : VerdictKind) (p : Policy) (st : SlotState)
    (n : Nat) (q : Option Nat) (t : Option Tag) : BoundedWork s (s.submitVerdict i k p st n q t) := by
  unfold State.submitVerdict
  dsimp only
  split
  · refine BoundedWork.trans ?_ (queueAlert _ _)
    exact setSlot s i _ fun h => ⟨h.latency, h.lostTags⟩
  · exact setSlot s i _ fun h => ⟨h.latency, h.lostTags⟩

theorem applyVerdict (s : State) (i : SlotIndex) (a : VerdictAction) :
    BoundedWork s (s.applyVerdict i a) := by
  cases a with
  | report => exact refl s
  | suspect =>
    exact (updFields s i (fun r => { r with cleanRun := 0 }) fun _ => ⟨rfl, rfl⟩).trans
      (changeState _ i _ _)
  | setVerdict => exact setVerdict s i

theorem countVerdict (s : State) : BoundedWork s s.countVerdict := same rfl

theorem raiseVerdict (s : State) (i : SlotIndex) (k : VerdictKind) (n : Nat) (q : Option Nat)
    (t : Option Tag) : BoundedWork s (s.raiseVerdict i k n q t) := by
  unfold State.raiseVerdict
  dsimp only
  split
  · exact refl s
  · refine BoundedWork.trans ?_ (applyVerdict _ _ _)
    refine BoundedWork.trans ?_ (submitVerdict _ _ _ _ _ _ _ _)
    exact (updFields s i (fun r => r.markVerdict k _) fun _ => ⟨rfl, rfl⟩).trans (countVerdict _)

/-! ### Probes -/

theorem probeOutcome (s : State) (p : InFlight) (o : ProbeOutcome) :
    BoundedWork s (s.probeOutcome p o) := by
  unfold State.probeOutcome
  split
  · split
    · exact updFields s _ _ fun _ => ⟨rfl, rfl⟩
    · exact refl s
  · exact raiseVerdict ..
  · exact raiseVerdict ..
  · exact refl s
  · exact refl s

theorem closeProbe (s : State) (p : InFlight) (o : ProbeOutcome) (a : Option ProbeAnswer) :
    BoundedWork s (s.closeProbe p o a) := by
  have idle : ∀ t : State, BoundedWork s t →
      BoundedWork s { t with engine := { t.engine with inFlight := none } } := fun t h =>
    h.trans (same rfl)
  have closing := (same (s := s) (t := { s with engine := { s.engine with
      pendingFrame := none, last := ⟨some ⟨p.addr, p.tag, p.origin⟩, o, a, true⟩ } }) rfl).trans
    (updFields _ p.slot (fun r => { r with lastProbe := o }) fun _ => ⟨rfl, rfl⟩)
  unfold State.closeProbe
  dsimp only
  split
  · exact idle _ closing
  · exact idle _ (closing.trans (removeEntry _ _))

theorem endProbe (s : State) (p : InFlight) (o : ProbeOutcome) (a : Option ProbeAnswer) :
    BoundedWork s (s.endProbe p o a) :=
  (closeProbe s p o a).trans (probeOutcome _ p o)

theorem cancelProbe (s : State) : BoundedWork s s.cancelProbe := by
  unfold State.cancelProbe
  split
  · exact refl s
  · exact endProbe ..

theorem clearRequests (s : State) : BoundedWork s s.clearRequests := same rfl

theorem setRequest (s : State) (i : SlotIndex) (o : Option ProbeOrigin) :
    BoundedWork s (s.setRequest i o) := same rfl

theorem joinRequest (s : State) (i : SlotIndex) (o : ProbeOrigin) :
    BoundedWork s (s.joinRequest i o) := by
  unfold State.joinRequest
  split
  · exact setRequest s i _
  · exact refl s

theorem launch (s : State) (i : SlotIndex) (o : ProbeOrigin)
    (room : s.table.length < Config.tableCapacity) : BoundedWork s (s.launch i o) :=
  (addEntry s (probeEntry s i (s.launchTag i)) room).trans (same rfl)

theorem serviceScan (l : List SlotIndex) (s : State) (room : s.table.length < Config.tableCapacity) :
    BoundedWork s (s.serviceScan l) := by
  induction l generalizing s with
  | nil => exact refl s
  | cons i l ih =>
    unfold State.serviceScan
    split
    · exact ih s room
    · split
      · exact launch s i _ room
      · exact (setRequest s i none).trans (ih _ room)

theorem probeAnswer (s : State) (i : SlotIndex) (t : Tag) (d : Digest) :
    BoundedWork s (s.probeAnswer i t d) := by
  unfold State.probeAnswer
  dsimp only
  split
  · exact same rfl
  · split
    · exact endProbe ..
    · exact same rfl

/-! ### Window closes and boundaries -/

theorem raiseFound (s : State) (i : SlotIndex) (k : VerdictKind) (n : Option Nat) :
    BoundedWork s (s.raiseFound i k n) := by
  cases n with
  | none => exact refl s
  | some n => exact raiseVerdict ..

theorem raiseStall (s : State) (i : SlotIndex) (n : Option (Nat × Tag)) :
    BoundedWork s (s.raiseStall i n) := by
  cases n with
  | none => exact refl s
  | some n => exact raiseVerdict ..

theorem windowVerdicts (s : State) (i : SlotIndex) (start : Tick) :
    BoundedWork s (s.windowVerdicts i start) :=
  (((raiseStall s i _).trans (raiseFound _ i _ _)).trans (raiseFound _ i _ _)).trans
    (raiseFound _ i _ _)

theorem closeStep1 (s : State) (i : SlotIndex) (start : Tick) :
    BoundedWork s (s.closeStep1 i start) := by
  unfold State.closeStep1
  dsimp only
  refine BoundedWork.trans ?_ (updFields _ i _ fun _ => ⟨rfl, rfl⟩)
  split
  · exact windowVerdicts s i start
  · exact refl s

theorem closeStep3 (s : State) (i : SlotIndex) : BoundedWork s (s.closeStep3 i) := by
  unfold State.closeStep3
  dsimp only
  split
  · exact refl s
  · split
    · exact (updFields s i (fun r => { r with ceiling := r.config.ceiling, quiet := 0 })
        fun _ => ⟨rfl, rfl⟩).trans (changeState _ i _ _)
    · split
      · exact (updFields s i (fun r => { r with quiet := 0 }) fun _ => ⟨rfl, rfl⟩).trans
          (changeState _ i _ _)
      · exact refl s

theorem closeStep4 (s : State) (i : SlotIndex) : BoundedWork s (s.closeStep4 i) := by
  unfold State.closeStep4
  split
  · exact enterFenced s i
  · exact refl s

theorem closeStep5 (s : State) (i : SlotIndex) : BoundedWork s (s.closeStep5 i) := by
  unfold State.closeStep5
  dsimp only
  split
  · exact enterProbation s i .restore
  · exact refl s

theorem closeStep6 (s : State) (i : SlotIndex) :
    BoundedWork s (s.updSlot i SlotRecord.closeStep6) := by
  refine updFields s i _ fun r => ?_
  unfold SlotRecord.closeStep6
  split <;> exact ⟨rfl, rfl⟩

theorem quietRequest (s : State) (i : SlotIndex) : BoundedWork s (s.quietRequest i) := by
  unfold State.quietRequest
  split
  · exact (joinRequest s i .quiet).trans
      (updFields _ i (fun r => { r with quiet := 0 }) fun _ => ⟨rfl, rfl⟩)
  · exact refl s

theorem recoveryRequest (s : State) (i : SlotIndex) : BoundedWork s (s.recoveryRequest i) := by
  unfold State.recoveryRequest
  split
  · exact (joinRequest s i .recovery).trans
      (updFields _ i (fun r => { r with sinceProbe := 0 }) fun _ => ⟨rfl, rfl⟩)
  · exact refl s

theorem closeStep7 (s : State) (i : SlotIndex) : BoundedWork s (s.closeStep7 i) :=
  ((updFields s i SlotRecord.advanceCounts fun _ => ⟨rfl, rfl⟩).trans (quietRequest _ i)).trans
    (recoveryRequest _ i)

theorem closeTail (s : State) (i : SlotIndex) : BoundedWork s (s.closeTail i) :=
  updFields s i _ fun _ => ⟨rfl, rfl⟩

theorem windowClose (s : State) (i : SlotIndex) (start : Tick) :
    BoundedWork s (s.windowClose i start) := by
  have judged := (closeStep1 s i start).trans (updFields _ i SlotRecord.closeStep2 fun _ => ⟨rfl, rfl⟩)
  have moved := ((judged.trans (closeStep3 _ i)).trans (closeStep4 _ i)).trans (closeStep5 _ i)
  exact ((moved.trans (closeStep6 _ i)).trans (closeStep7 _ i)).trans (closeTail _ i)

theorem slotTurn (start : Tick) (s : State) (i : SlotIndex) :
    BoundedWork s (State.slotTurn start s i) := by
  unfold State.slotTurn
  split
  · exact windowClose s i start
  · split
    · exact closeTail s i
    · exact refl s

theorem boundaryCloses (s : State) (turns : List SlotIndex) :
    BoundedWork s (s.boundaryCloses turns) :=
  (same (s := s) (t := { s with time := s.time.openWindow.advancePostscale }) rfl).trans
    (foldl _ (slotTurn s.time.windowStart) (turnSequence turns) _)

theorem censusInstant (s : State) : BoundedWork s s.censusInstant := by
  unfold State.censusInstant
  split
  · unfold State.censusAlert
    split
    · exact (queueAlert s _).trans (same rfl)
    · exact same rfl
  · exact same rfl

theorem boundaryCensus (s : State) (due : Bool) : BoundedWork s (s.boundaryCensus due) := by
  unfold State.boundaryCensus
  split
  · exact censusInstant s
  · exact refl s

theorem boundarySnapshot (s : State) (due : Bool) : BoundedWork s (s.boundarySnapshot due) := by
  unfold State.boundarySnapshot
  split
  · unfold State.censusSnapshot
    split
    · exact same rfl
    · exact refl s
  · exact refl s

theorem boundary (s : State) (turns : List SlotIndex) : BoundedWork s (s.boundary turns) :=
  ((boundaryCloses s turns).trans (boundaryCensus _ _)).trans (boundarySnapshot _ _)

theorem commitTables (s : State) : BoundedWork s s.commitTables := same rfl

theorem takeSnapshot (s : State) (cause : SnapshotCause) : BoundedWork s (s.takeSnapshot cause) :=
  same rfl

theorem markCommit (s : State) : BoundedWork s s.markCommit := by
  unfold State.markCommit
  split
  · exact commitTables s
  · exact refl s

theorem markSnapshot (s : State) : BoundedWork s s.markSnapshot := by
  unfold State.markSnapshot
  split
  · exact takeSnapshot s .mark
  · exact refl s

theorem markEvent (s : State) (orders : EdgeOrders) : BoundedWork s (s.markEvent orders) := by
  unfold State.markEvent
  dsimp only
  split
  · have closed := ((boundaryCloses s orders.turns).trans
      (boundaryCensus _ s.time.censusDue)).trans (markCommit _)
    split
    · exact (closed.trans (markSnapshot _)).trans (boundarySnapshot _ _)
    · exact (closed.trans (boundarySnapshot _ _)).trans (markSnapshot _)
  · exact (markCommit s).trans (markSnapshot _)

theorem takeMark (s : State) (level : Bool) (orders : EdgeOrders) :
    BoundedWork s (s.takeMark level orders) := by
  unfold State.takeMark
  split
  · exact (same (s := s) (t := s.sampleMark true) rfl).trans (markEvent _ orders)
  · exact same rfl

/-! ### Entry events (R56, R57, R80) -/

theorem loseEntry (s : State) (e : Entry) : BoundedWork s (s.loseEntry e) := by
  have pushed := (credit s e.slot .losts).trans (updSlot _ e.slot
    (fun r => { r with lostTags := pushLostTag r.lostTags e.tag })
    fun _ h => ⟨h.latency, length_pushLostTag e.tag h.lostTags⟩)
  exact (pushed.trans (releasePartner _ e)).trans (removeEntry _ e)

theorem expireTwin (s : State) (e : Entry) : BoundedWork s (s.expireTwin e) := by
  unfold State.expireTwin
  dsimp only
  split
  · exact removeEntry s e
  · exact (((removeEntry s e).trans (updEntry _ _ _)).trans (credit _ _ _)).trans (raiseVerdict ..)

/-! ### Answers -/

theorem countCompletion (s : State) (e : Entry) : BoundedWork s (s.countCompletion e) := by
  unfold State.countCompletion
  dsimp only
  refine BoundedWork.trans ?_ (updSlot _ _ _ fun _ h => h.sampleLatency _)
  split
  · exact (credit s _ _).trans (credit _ _ _)
  · exact credit s _ _

theorem removePair (s : State) (a b : Entry) (first : Bool) :
    BoundedWork s (s.removePair a b first) := by
  unfold State.removePair
  split
  · exact (removeEntry s a).trans (removeEntry _ b)
  · exact (removeEntry s b).trans (removeEntry _ a)

theorem raiseDivergences (s : State) (a b : Entry) (first : Bool) :
    BoundedWork s (s.raiseDivergences a b first) := by
  unfold State.raiseDivergences
  split
  · exact (raiseVerdict ..).trans (raiseVerdict ..)
  · exact (raiseVerdict ..).trans (raiseVerdict ..)

theorem compareTwins (s : State) (a b : Entry) (d : Digest) (x y : Bool) :
    BoundedWork s (s.compareTwins a b d x y) := by
  unfold State.compareTwins
  dsimp only
  split
  · exact removePair s a b x
  · exact (((removePair s a b x).trans (credit _ _ _)).trans (credit _ _ _)).trans
      (raiseDivergences _ _ _ _)

theorem disposeAnswered (s : State) (e : Entry) (d : Digest) (x y : Bool) :
    BoundedWork s (s.disposeAnswered e d x y) := by
  unfold State.disposeAnswered
  split
  · exact removeEntry s e
  · split
    · exact removeEntry s e
    · split
      · exact compareTwins ..
      · exact updEntry s _ _

/-! ### Frames -/

/-- A frame that joins an ascending through buffer with room. -/
theorem forwardUp (s : State) (f : Frame)
    (room : s.trunk.ascBuffer.length < Config.throughCapacity) : BoundedWork s (s.forwardUp f) where
  pending := rfl
  reply := Nat.le_refl _
  capacity h := { h with asc := by simpa [State.forwardUp] using room }

/-- A frame that joins a descending through buffer with room. -/
theorem forwardDown (s : State) (f : Frame)
    (room : s.trunk.descBuffer.length < Config.throughCapacity) : BoundedWork s (s.forwardDown f) where
  pending := rfl
  reply := Nat.le_refl _
  capacity h := { h with desc := by simpa [State.forwardDown] using room }

theorem clearUpStage (s : State) : BoundedWork s s.clearUpStage := same rfl

theorem clearDownStage (s : State) : BoundedWork s s.clearDownStage := same rfl

end BoundedWork
end Sys2Proof.Machine

namespace Sys2Proof.Machine

/-! ### Admission of a new entry finds a place in the table (R45, R43) -/

/-- The outcomes of admission that create an entry (R46, R43). -/
def Admission.creates : Admission → Bool
  | .create => true
  | .redirectCreate _ => true
  | .untracked | .retry | .redirectRetry _ | .redirectUntracked _ | .bounce _ _ => false

theorem State.acceptance_room {s : State} {i : SlotIndex} {f : Frame}
    (h : (s.acceptance i f).creates = true) : s.tableHasRoom = true := by
  unfold State.acceptance at h
  split at h
  · cases h
  · split at h
    · split at h
      · split at h <;> cases h
      · cases h
    · split at h
      · cases h
      · split at h
        · cases h
        · simp_all

theorem State.redirection_room {s : State} {i : SlotIndex} {f : Frame}
    (h : (s.redirection i f).creates = true) : s.tableHasRoom = true := by
  unfold State.redirection at h
  split at h
  · cases h
  · split at h
    · cases h
    · split at h
      · split at h
        · split at h <;> cases h
        · cases h
      · split at h
        · cases h
        · split at h
          · rename_i room
            exact room.2
          · cases h

theorem State.admission_room {s : State} {i : SlotIndex} {f : Frame}
    (h : (s.admission i f).creates = true) : s.table.length < Config.tableCapacity := by
  have room : s.tableHasRoom = true := by
    unfold State.admission at h
    dsimp only at h
    split at h
    · split at h <;> cases h
    · split at h
      · cases h
      · split at h
        · exact State.redirection_room h
        · exact State.acceptance_room h
  simpa [State.tableHasRoom] using room

/-- Twin linking rewrites entries in place, or does nothing (R73, R75). -/
theorem State.linkTwin_cases (s : State) (i : SlotIndex) (f : Frame) : s.linkTwin i f = s ∨
    ∃ k l g h, s.linkTwin i f = (s.updEntry k g).updEntry l h := by
  unfold State.linkTwin
  split
  · exact .inl rfl
  · split
    · exact .inl rfl
    · split
      · exact .inr ⟨_, _, _, _, rfl⟩
      · exact .inl rfl

theorem State.linkTwin_trunk (s : State) (i : SlotIndex) (f : Frame) :
    (s.linkTwin i f).trunk = s.trunk := by
  obtain same | ⟨_, _, _, _, linked⟩ := s.linkTwin_cases i f
  · rw [same]
  · rw [linked]
    rfl

theorem State.bufferCommand_trunk (s : State) (f : Frame) (how : Addressing) :
    (s.bufferCommand f how).trunk = s.trunk := by
  unfold State.bufferCommand
  split <;> rfl

/-- The head of a list within its capacity is taken: the rest is within it. -/
theorem rest_le {α : Type} {l rest : List α} {a : α} {cap : Nat} (h : l = a :: rest)
    (fits : l.length ≤ cap) : rest.length ≤ cap := by
  subst h
  exact (Nat.le_succ rest.length).trans fits

namespace BoundedWork

/-! ### Frames taken at UP (R11, R14, R39) -/

/-- A frame forwarded DOWN after work that leaves the buffer as it was. -/
theorem thenForwardDown {s t : State} (h : BoundedWork s t) (f : Frame)
    (buffer : t.trunk.descBuffer = s.trunk.descBuffer)
    (room : s.trunk.descBuffer.length < Config.throughCapacity) : BoundedWork s (t.forwardDown f) :=
  h.trans (forwardDown t f (buffer ▸ room))

theorem countRetry (s : State) (i : SlotIndex) (t : Tag) : BoundedWork s (s.countRetry i t) :=
  updEntry s _ _

theorem createEntry (s : State) (i : SlotIndex) (f : Frame) (redirected : Bool)
    (room : s.table.length < Config.tableCapacity) : BoundedWork s (s.createEntry i f redirected) :=
  (addEntry s _ room).trans (credit _ i .arrivals)

theorem linkTwin (s : State) (i : SlotIndex) (f : Frame) : BoundedWork s (s.linkTwin i f) := by
  obtain same | ⟨_, _, _, _, linked⟩ := s.linkTwin_cases i f
  · rw [same]
    exact refl s
  · rw [linked]
    exact (updEntry s _ _).trans (updEntry _ _ _)

theorem placeBounce (s : State) (i : SlotIndex) (f : Frame) (reason : BounceReason) (full : Bool)
    (room : s.report.bounceQueue.length < Config.bounceCapacity) :
    BoundedWork s (s.placeBounce i f reason full) := by
  have placed : BoundedWork s { s with report := { s.report with
      bounceQueue := s.report.bounceQueue ++ [s.bounceFrame f reason] } } :=
    { pending := rfl
      reply := Nat.le_refl _
      capacity := fun h => { h with bounce := by simpa using room } }
  unfold State.placeBounce
  dsimp only
  split
  · exact (placed.trans (credit _ i .bounces)).trans (setFlags _ _)
  · exact placed.trans (credit _ i .bounces)

theorem carryAdmission (s : State) (i : SlotIndex) (f : Frame)
    (room : s.trunk.descBuffer.length < Config.throughCapacity) :
    BoundedWork s (s.carryAdmission i f) := by
  have taken := clearUpStage s
  unfold State.carryAdmission
  split
  case h_1 => exact taken.thenForwardDown f rfl room
  case h_2 => exact (taken.trans (countRetry _ i f.tag)).thenForwardDown f rfl room
  case h_3 created =>
    have place := State.admission_room (by rw [created]; rfl)
    exact ((taken.trans (createEntry _ i f false place)).trans (linkTwin _ i f)).thenForwardDown f
      (by rw [State.linkTwin_trunk]; rfl) room
  case h_4 j _ =>
    exact ((taken.trans (countRetry _ j f.tag)).trans (credit _ i .redirects)).thenForwardDown _ rfl room
  case h_5 j _ => exact (taken.trans (credit _ i .redirects)).thenForwardDown _ rfl room
  case h_6 j created =>
    have place := State.admission_room (by rw [created]; rfl)
    exact ((taken.trans (createEntry _ j f true place)).trans (credit _ i .redirects)).thenForwardDown
      _ rfl room
  case h_7 reason full _ =>
    split
    · rename_i queue
      exact taken.trans (placeBounce _ i f reason full queue)
    · exact refl s

theorem bufferCommand (s : State) (f : Frame) (how : Addressing) :
    BoundedWork s (s.bufferCommand f how) := by
  unfold State.bufferCommand
  split
  · exact same rfl
  · exact setFlags s _

theorem takeCommand (s : State) (f : Frame)
    (room : s.trunk.descBuffer.length < Config.throughCapacity) : BoundedWork s (s.takeCommand f) := by
  have taken := clearUpStage s
  unfold State.takeCommand
  dsimp only
  split
  · exact taken.trans (bufferCommand _ f .own)
  · rename_i how _ _
    have copied := taken.trans (bufferCommand _ f how)
    split
    · exact copied
    · exact copied.thenForwardDown _ (by rw [State.bufferCommand_trunk]; rfl) room
  · split
    · exact taken
    · exact taken.thenForwardDown f rfl room

theorem takeRequest (s : State) (f : Frame)
    (room : s.trunk.descBuffer.length < Config.throughCapacity) : BoundedWork s (s.takeRequest f) := by
  have passed := (clearUpStage s).thenForwardDown f rfl room
  unfold State.takeRequest
  split
  · split
    · exact carryAdmission s _ f room
    · exact passed
  · exact passed

theorem classifyUp (s : State) (f : Frame)
    (room : s.trunk.descBuffer.length < Config.throughCapacity) : BoundedWork s (s.classifyUp f) := by
  unfold State.classifyUp
  split
  · exact takeRequest s f room
  · exact takeCommand s f room
  all_goals exact (clearUpStage s).thenForwardDown f rfl room

/-! ### Frames taken at DOWN (R12, R48) -/

/-- A frame forwarded UP after work on slots, entries and alerts, which leaves the buffer as it was. -/
theorem thenForwardUp {s t : State} (h : BoundedWork s t) (f : Frame) (trunk : t.trunk = s.trunk)
    (room : s.trunk.ascBuffer.length < Config.throughCapacity) : BoundedWork s (t.forwardUp f) :=
  h.trans (forwardUp t f (trunk ▸ room))

theorem carryMatching (s : State) (i : SlotIndex) (f : Frame) (a b : Bool)
    (room : s.trunk.ascBuffer.length < Config.throughCapacity) :
    BoundedWork s (s.carryMatching i f a b) := by
  refine (clearDownStage s).trans ?_
  unfold State.carryMatching
  dsimp only
  generalize hs : s.clearDownStage = s0
  have room0 : s0.trunk.ascBuffer.length < Config.throughCapacity := hs ▸ room
  split
  case h_1 => exact probeAnswer s0 ..
  case h_2 => exact forwardUp s0 f room0
  case h_3 => exact credit s0 i .absorbed
  case h_4 e _ =>
    have disposed := (SlotWork.countCompletion s0 e).trans
      (SlotWork.disposeAnswered _ e (crc f.payload) a b)
    exact ((countCompletion s0 e).trans (disposeAnswered _ e (crc f.payload) a b)).thenForwardUp f
      disposed.trunk room0
  case h_5 => exact (credit s0 i .strays).thenForwardUp f rfl room0
  case h_6 =>
    have erased := updSlot s0 i (fun r => { r with lostTags := r.lostTags.erase f.tag })
      fun _ h => ⟨h.latency, (List.length_erase_le ..).trans h.lostTags⟩
    exact (erased.trans (credit _ i .tardies)).thenForwardUp f rfl room0
  case h_7 => exact (credit s0 i .strays).thenForwardUp f rfl room0

theorem classifyDown (s : State) (f : Frame) (a b : Bool)
    (room : s.trunk.ascBuffer.length < Config.throughCapacity) :
    BoundedWork s (s.classifyDown f a b) := by
  have passed := fun g => (clearDownStage s).trans (forwardUp s.clearDownStage g room)
  unfold State.classifyDown
  split
  · unfold State.takeResponse
    split
    · split
      · exact carryMatching s _ f a b room
      · exact passed f
    · exact passed f
  all_goals exact passed _

/-! ### The trunk interface -/

theorem countBad (s : State) (p : Port) : BoundedWork s (s.countBad p) := by
  cases p <;> exact same rfl

theorem setStage (s : State) (f : Frame) (p : Port) : BoundedWork s (s.setStage f p) := by
  cases p <;> exact same rfl

theorem frameEnds {s judged : State} (p : Port) (h : BoundedWork s judged) :
    BoundedWork s (s.frameEnds p judged) := by
  unfold State.frameEnds
  split
  · exact refl s
  · split
    · cases p <;> exact same rfl
    · exact h

theorem outboxFreed (s : State) : BoundedWork s s.outboxFreed := by
  unfold State.outboxFreed
  split
  · refine BoundedWork.trans ?_ (queueAlert _ _)
    exact same rfl
  · split
    · refine BoundedWork.trans ?_ (queueAlert _ _)
      exact same rfl
    · exact refl s

theorem sendInserted (s : State) : BoundedWork s s.sendInserted := by
  unfold State.sendInserted
  split
  case h_1 bounces =>
    exact ⟨⟨rfl, fun h => { h with bounce := rest_le bounces h.bounce }⟩, Nat.le_refl _⟩
  case h_2 replies =>
    exact ⟨⟨rfl, fun h => { h with reply := rest_le replies h.reply }⟩, rest_le replies (Nat.le_refl _)⟩
  case h_3 r rest _ _ alerts =>
    have sent : BoundedWork s
        (State.beginUp { s with report := { s.report with outbox := rest } } r.frame .inserted) :=
      ⟨⟨rfl, fun h => { h with outbox := rest_le alerts h.outbox }⟩, Nat.le_refl _⟩
    dsimp only
    split
    · exact sent.trans (outboxFreed _)
    · exact sent
  case h_4 => exact refl s

theorem sendThroughUp (s : State) : BoundedWork s s.sendThroughUp := by
  unfold State.sendThroughUp
  split
  · exact refl s
  · rename_i frames
    exact ⟨⟨rfl, fun h => { h with asc := rest_le frames h.asc }⟩, Nat.le_refl _⟩

theorem sendThroughDown (s : State) : BoundedWork s s.sendThroughDown := by
  unfold State.sendThroughDown
  split
  · exact refl s
  · rename_i frames
    exact ⟨⟨rfl, fun h => { h with desc := rest_le frames h.desc }⟩, Nat.le_refl _⟩

theorem sendProbe (s : State) : BoundedWork s s.sendProbe := by
  unfold State.sendProbe
  split
  · exact refl s
  · exact same rfl

/-! ### Time -/

theorem countClaim (s : State) (n : Nat) : BoundedWork s (s.countClaim n) := by
  unfold State.countClaim
  split
  · exact same rfl
  · exact refl s

theorem takeTick (s : State) : BoundedWork s s.takeTick := by
  unfold State.takeTick
  split
  · exact refl s
  · exact (countClaim s _).trans (same rfl)

theorem refclkPeriod (s : State) : BoundedWork s s.refclkPeriod := by
  unfold State.refclkPeriod
  split
  · exact refl s
  · split
    · split
      · exact refl s
      · exact (countClaim s 1).trans (same rfl)
    · exact takeTick s

/-! ### Resets and start-up -/

/-- Records whose two lists are empty are within the capacities. -/
theorem setSlots (s : State) (v : Vector SlotRecord 32)
    (h : ∀ i : SlotIndex, v[i].latency = [] ∧ v[i].lostTags = []) : BoundedWork s { s with slots := v } :=
  ⟨⟨rfl, fun hs =>
    { hs with
      latency := fun i => (congrArg List.length (h i).1).trans_le (Nat.zero_le _)
      lostTags := fun i => (congrArg List.length (h i).2).trans_le (Nat.zero_le _) }⟩, Nat.le_refl _⟩

theorem hardReset (s : State) (cause : StartCause) (lines : ResetLines) :
    BoundedWork s (s.hardReset cause lines) where
  pending := rfl
  reply := Nat.zero_le _
  capacity _ :=
    { desc := Nat.zero_le _
      asc := Nat.zero_le _
      outbox := Nat.zero_le _
      bounce := Nat.zero_le _
      reply := Nat.zero_le _
      table := Nat.zero_le _
      latency := fun i => by simp [State.slot, State.hardReset, SlotRecord.loaded]
      lostTags := fun i => by simp [State.slot, State.hardReset, SlotRecord.loaded] }

theorem finishLoad (s : State) (inputs : LoadInputs) : BoundedWork s (s.finishLoad inputs) := by
  refine BoundedWork.trans ?_ (queueAlert _ _)
  refine (setSlots s (s.store.image.loadItems.slots.map SlotRecord.loaded) fun i => ?_).trans (same rfl)
  simp [SlotRecord.loaded]

theorem claimEffect (s : State) : BoundedWork s s.claimEffect := by
  have claimSlot : ∀ (t : State) (i : SlotIndex), BoundedWork t (t.claimSlot i) := fun t i => by
    unfold State.claimSlot
    split
    · exact enterProbation t i .claim
    · exact refl t
  unfold State.claimEffect
  split
  · exact refl s
  · exact ((same (s := s) (t := s.setClaimTimer none) rfl).trans (changeMode _ .watching)).trans
      (foldl _ claimSlot _ _)

theorem releaseSlot (s : State) (i : SlotIndex) : BoundedWork s (s.releaseSlot i) := by
  unfold State.releaseSlot
  split
  · exact (updSlot s i SlotRecord.toReleased fun _ h => ⟨h.latency, Nat.zero_le _⟩).trans
      (queueAlert _ _)
  · exact refl s

/-- The probe cancelled, the request set and the table emptied: the first part of a RELEASE and of a soft
reset (R206, R207). -/
theorem emptied (s : State) : BoundedWork s s.cancelProbe.clearRequests.emptyTable :=
  ((cancelProbe s).trans (clearRequests _)).trans (emptyTable _)

theorem releaseEffect (s : State) : BoundedWork s s.releaseEffect :=
  ((emptied s).trans (foldl _ releaseSlot allSlots _)).trans (changeMode _ _)

theorem resetAlert (before s : State) (i : SlotIndex) : BoundedWork s (before.resetAlert s i) := by
  unfold State.resetAlert
  split
  · exact refl s
  · exact queueAlert s _

theorem softBlocks (s : State) : BoundedWork s s.softBlocks := by
  have cleared := (emptied s).trans (setSlots _ s.softBlocks.slots fun i => by
    simp [State.softBlocks, SlotRecord.softReset])
  exact cleared.trans ⟨⟨rfl, fun h => { h with outbox := Nat.zero_le _ }⟩, Nat.le_refl _⟩

theorem softReset (s : State) : BoundedWork s s.softReset :=
  ((softBlocks s).trans (queueAlert _ _)).trans (foldl _ (resetAlert s) allSlots _)

theorem setChain (s : State) (a : ChainAddr) : BoundedWork s (s.setChain a) := by
  unfold State.setChain
  dsimp only
  split
  · exact same rfl
  · exact (cancelProbe s).trans (same rfl)

theorem vacateEffect (s : State) (i : SlotIndex) : BoundedWork s (s.vacateEffect i) := by
  have twinless : BoundedWork s (s.dropTwinOf i) := by
    unfold State.dropTwinOf
    split
    · exact refl s
    · exact updFields s _ _ fun _ => ⟨rfl, rfl⟩
  have vacated := twinless.trans (updSlot _ i SlotRecord.vacated
    fun _ _ => ⟨Nat.zero_le _, Nat.zero_le _⟩)
  unfold State.vacateEffect
  dsimp only
  split
  · exact vacated
  · exact vacated.trans (queueAlert _ _)

end BoundedWork
end Sys2Proof.Machine

namespace Sys2Proof.Machine

/-! ### Management commands (R181, R182) -/

/-- The answer of a command's rule in `s` leaves a state that bounded work reaches. -/
def CommandResult.Bounded (s : State) : CommandResult → Prop
  | .done t _ => BoundedWork s t
  | .answer t _ => BoundedWork s t
  | .refuse _ => True

/-- A copy that can be executed and needs a reply finds room for it (R181). -/
theorem State.canExecute_room {s : State} {c : CommandCopy} (can : s.canExecute c = true)
    (needs : s.needsReply c = true) : s.mgmt.replyQueue.length < Config.replyCapacity := by
  simpa [State.canExecute, needs] using And.right (Bool.and_eq_true_iff.mp can)

namespace BoundedStep

/-- The end of an execution whose reply is placed: bounded work, the reply in the room found before it,
the buffer emptied. -/
theorem replied {s t : State} (h : BoundedWork s t) (f : Frame)
    (room : s.mgmt.replyQueue.length < Config.replyCapacity) :
    BoundedStep s (t.placeReply f).clearCommand where
  pending := h.pending
  capacity hs :=
    { h.capacity hs with
      reply := by
        have := h.reply
        show (t.mgmt.replyQueue ++ [f]).length ≤ Config.replyCapacity
        simp only [List.length_append, List.length_singleton]
        omega }

/-- The end of an execution without a reply. -/
theorem unanswered {s t : State} (h : BoundedWork s t) : BoundedStep s t.clearCommand :=
  (h.trans (BoundedWork.same (t := t.clearCommand) rfl)).toBoundedStep

theorem refuseCopy {s : State} {c : CommandCopy} (can : s.canExecute c = true) (r : ResultCode) :
    BoundedStep s (s.refuseCopy c r) := by
  unfold State.refuseCopy
  split
  · rename_i needs
    exact replied (BoundedWork.refl s) _ (State.canExecute_room can needs)
  · exact unanswered (BoundedWork.setFlags s _)

theorem concludeCopy {s : State} {c : CommandCopy} (can : s.canExecute c = true) {r : CommandResult}
    (h : r.Bounded s) : BoundedStep s (s.concludeCopy c r) := by
  cases r with
  | refuse r => exact refuseCopy can r
  | done t results =>
    unfold State.concludeCopy
    dsimp only
    split
    · rename_i needs
      exact replied h _ (State.canExecute_room can needs)
    · exact unanswered h
  | answer t f =>
    unfold State.concludeCopy
    dsimp only
    split
    · rename_i needs
      exact replied h f (State.canExecute_room can needs)
    · exact unanswered h

/-- A command whose rule does bounded work is a bounded step, reply included. -/
theorem runCommand {s : State} (k : CommandForm) {effect : State → CommandCopy → CommandResult}
    (h : ∀ c, (effect s c).Bounded s) : BoundedStep s (s.runCommand k effect) := by
  unfold State.runCommand
  split
  · exact (BoundedWork.refl s).toBoundedStep
  · rename_i c _
    split
    · rename_i run
      unfold State.executeCopy
      split
      · exact refuseCopy run.2 .state
      · split
        · exact refuseCopy run.2 .range
        · exact concludeCopy run.2 (h c)
    · exact (BoundedWork.refl s).toBoundedStep

end BoundedStep

/-! ### The rules of the commands -/

namespace CommandResult.Bounded

variable (s : State) (i : SlotIndex) (c : CommandCopy)

theorem enumerate : (enumerateRule s c).Bounded s := BoundedWork.setChain s _

theorem identify : (identifyRule s c).Bounded s := BoundedWork.setFlags s _

theorem setGroups : (setGroupsRule s c).Bounded s := by
  unfold setGroupsRule
  split
  · exact BoundedWork.same rfl
  · trivial

theorem setRange : (setRangeRule s c).Bounded s := by
  unfold setRangeRule
  split
  · trivial
  · split
    · trivial
    · exact BoundedWork.same rfl

theorem claim : (claimRule s c).Bounded s := BoundedWork.claimEffect s

theorem release : (releaseRule s c).Bounded s := by
  unfold releaseRule
  split
  · split
    · trivial
    · exact BoundedWork.releaseEffect s
  · exact BoundedWork.refl s

theorem reset : (resetRule s c).Bounded s := BoundedWork.softReset s

theorem store : (storeRule s c).Bounded s := by
  unfold storeRule
  split
  · trivial
  · exact BoundedWork.same rfl

theorem setTiming : (setTimingRule s c).Bounded s := by
  unfold setTimingRule
  split
  · trivial
  · split
    · trivial
    · exact BoundedWork.same rfl

theorem writeProfile : (writeProfileRule s c).Bounded s := by
  unfold writeProfileRule
  split
  · exact BoundedWork.same rfl
  · trivial

theorem readProfile : (readProfileRule s c).Bounded s := by
  unfold readProfileRule
  split
  · exact BoundedWork.refl s
  · trivial

theorem writePolicy : (writePolicyRule s c).Bounded s := by
  unfold writePolicyRule
  split
  · exact BoundedWork.same rfl
  · trivial

theorem readPolicy : (readPolicyRule s c).Bounded s := by
  unfold readPolicyRule
  split
  · exact BoundedWork.refl s
  · trivial

theorem commit : (commitRule s c).Bounded s := BoundedWork.commitTables s

theorem snapshot : (snapshotRule s c).Bounded s := BoundedWork.takeSnapshot s .command

theorem censusQuery : (censusQueryRule s c).Bounded s := BoundedWork.refl s

theorem probeResult : (probeResultRule s c).Bounded s := by
  unfold probeResultRule
  exact BoundedWork.same rfl

/-- A slot command, whatever its slot address. -/
theorem slot {rule : State → SlotIndex → CommandCopy → CommandResult}
    (h : ∀ s i c, (rule s i c).Bounded s) : (slotRule rule s c).Bounded s := by
  unfold slotRule
  split
  · trivial
  · exact h s _ c

theorem admitSlot : (admitRule s i c).Bounded s := by
  unfold admitRule
  split
  · trivial
  · split
    · trivial
    · exact BoundedWork.enterProbation s i .command

theorem park : (parkRule s i c).Bounded s := by
  have accepting : BoundedWork s (s.parkAccepting i) := by
    unfold State.parkAccepting
    split
    · exact BoundedWork.enterParked s i .command
    · exact BoundedWork.changeState s i .draining .command
  unfold parkRule
  split
  case h_1 => trivial
  case h_2 => exact BoundedWork.refl s
  case h_3 => exact BoundedWork.refl s
  case h_7 =>
    split
    · trivial
    · refine BoundedWork.trans ?_ (BoundedWork.enterParked _ i .command)
      exact BoundedWork.updFields s i _ fun _ => ⟨rfl, rfl⟩
  all_goals exact accepting

theorem fence : (fenceRule s i c).Bounded s := by
  unfold fenceRule
  split
  · trivial
  · exact BoundedWork.setManual s i

theorem unfence : (unfenceRule s i c).Bounded s := by
  have cleared : BoundedWork s (s.updSlot i SlotRecord.clearFence) :=
    BoundedWork.updFields s i _ fun _ => ⟨rfl, rfl⟩
  unfold unfenceRule
  split
  case h_1 => exact BoundedWork.enterProbation s i .command
  case h_5 =>
    split
    · exact cleared.trans (BoundedWork.settleDrain _ i)
    · trivial
  case h_6 => trivial
  case h_7 => trivial
  all_goals
    split
    · exact cleared
    · trivial

theorem vacate : (vacateRule s i c).Bounded s := by
  have occupied : CommandResult.Bounded s
      (if (s.slot i).noEntry then .done (s.vacateEffect i) [] else .refuse .busy) := by
    split
    · exact BoundedWork.vacateEffect s i
    · trivial
  unfold vacateRule
  split
  case h_5 => exact occupied
  case h_6 => exact occupied
  case h_7 => exact BoundedWork.vacateEffect s i
  all_goals trivial

theorem pair : (pairRule s i c).Bounded s := by
  unfold pairRule
  split
  · trivial
  · split
    · trivial
    · split
      · trivial
      · split
        · trivial
        · refine BoundedWork.trans ?_ (BoundedWork.updFields _ _ _ fun _ => ⟨rfl, rfl⟩)
          exact BoundedWork.updFields s i _ fun _ => ⟨rfl, rfl⟩

theorem unpair : (unpairRule s i c).Bounded s := by
  unfold unpairRule
  split
  · trivial
  · split
    · trivial
    · refine BoundedWork.trans ?_ (BoundedWork.updFields _ _ _ fun _ => ⟨rfl, rfl⟩)
      exact BoundedWork.updFields s i _ fun _ => ⟨rfl, rfl⟩

theorem configure : (configureRule s i c).Bounded s := by
  unfold configureRule
  split
  · trivial
  · exact BoundedWork.updFields s i _ fun _ => ⟨rfl, rfl⟩

theorem slotStatus : (slotStatusRule s i c).Bounded s := by
  unfold slotStatusRule
  exact BoundedWork.updFields s i _ fun _ => ⟨rfl, rfl⟩

theorem readSample : (readSampleRule s i c).Bounded s := by
  unfold readSampleRule
  dsimp only
  split
  · exact BoundedWork.refl s
  · rename_i x rest samples
    refine BoundedWork.setSlot s i _ fun h => ⟨?_, h.lostTags⟩
    have := h.latency
    rw [samples] at this
    exact (Nat.le_succ rest.length).trans this

theorem readSnapshot : (readSnapshotRule s i c).Bounded s := BoundedWork.refl s

theorem probe : (probeRule s i c).Bounded s := by
  unfold probeRule
  split
  · trivial
  · split
    · trivial
    · split
      · trivial
      · unfold State.commandProbe
        split
        · rename_i room
          exact BoundedWork.launch s i .command (by simpa [State.tableHasRoom] using room)
        · exact BoundedWork.setRequest s i _

end CommandResult.Bounded

/-! ### The commands, chapter by chapter -/

/-- A command ends in a next state that a bounded step reaches from `s`. -/
def Result.Bounded (s : State) (r : Result) : Prop := ∃ t, r = .next t ∧ BoundedStep s t

theorem BoundedWork.result {s t : State} (h : BoundedWork s t) :
    Result.Bounded s (.next t) := ⟨t, rfl, h.toBoundedStep⟩

namespace Result.Bounded

variable (s : State)

theorem lineReset (lines : ResetLines) : Result.Bounded s (execLineReset lines s) := by
  refine BoundedWork.result ?_
  split
  · exact BoundedWork.refl s
  · split
    · exact BoundedWork.hardReset s .line lines
    · exact BoundedWork.same rfl

theorem storeLoadComplete (inputs : LoadInputs) :
    Result.Bounded s (execStoreLoadComplete inputs s) := by
  refine BoundedWork.result ?_
  split
  · exact BoundedWork.finishLoad s inputs
  · exact BoundedWork.refl s

theorem claimTimeout : Result.Bounded s (execClaimTimeout s) := by
  refine BoundedWork.result ?_
  split
  · exact (BoundedWork.same (s := s) (t := s.setClaimTimer none) rfl).trans
      (BoundedWork.changeMode _ .transparent)
  · exact BoundedWork.refl s

theorem frameComplete (port : Port) (bytes : List Byte) :
    Result.Bounded s (execFrameComplete port bytes s) := by
  refine BoundedWork.result (BoundedWork.frameEnds port ?_)
  split
  · exact BoundedWork.countBad s port
  · split
    · exact BoundedWork.setStage s _ port
    · exact BoundedWork.countBad s port

theorem takeUpFrame : Result.Bounded s (execTakeUpFrame s) := by
  refine BoundedWork.result ?_
  split
  · exact BoundedWork.refl s
  · split
    · rename_i f _ taken
      exact BoundedWork.classifyUp s f taken.2
    · exact BoundedWork.refl s

theorem takeDownFrame (removed judged : Bool) :
    Result.Bounded s (execTakeDownFrame removed judged s) := by
  refine BoundedWork.result ?_
  split
  · exact BoundedWork.refl s
  · split
    · rename_i f _ taken
      exact BoundedWork.classifyDown s f removed judged taken.2
    · exact BoundedWork.refl s

theorem upTransmitBegin : Result.Bounded s (execUpTransmitBegin s) := by
  refine BoundedWork.result ?_
  split
  · exact BoundedWork.refl s
  · split
    · exact BoundedWork.sendInserted s
    · split
      · exact BoundedWork.sendInserted s
      · exact BoundedWork.sendThroughUp s

theorem downTransmitBegin : Result.Bounded s (execDownTransmitBegin s) := by
  refine BoundedWork.result ?_
  split
  · exact BoundedWork.refl s
  · split
    · exact BoundedWork.sendProbe s
    · split
      · exact BoundedWork.sendProbe s
      · exact BoundedWork.sendThroughDown s

theorem entryDeadline (slot : SlotIndex) (tag : Tag) :
    Result.Bounded s (execEntryDeadline slot tag s) := by
  refine BoundedWork.result ?_
  split
  · exact BoundedWork.refl s
  · split
    · exact BoundedWork.updEntry s _ _
    · exact BoundedWork.refl s

theorem entryLoss (slot : SlotIndex) (tag : Tag) : Result.Bounded s (execEntryLoss slot tag s) := by
  refine BoundedWork.result ?_
  split
  · exact BoundedWork.refl s
  · split
    · exact BoundedWork.loseEntry s _
    · exact BoundedWork.refl s

theorem twinWindowExpiry (slot : SlotIndex) (tag : Tag) :
    Result.Bounded s (execTwinWindowExpiry slot tag s) := by
  refine BoundedWork.result ?_
  split
  · exact BoundedWork.refl s
  · split
    · exact BoundedWork.expireTwin s _
    · exact BoundedWork.refl s

theorem probeDeadline : Result.Bounded s (execProbeDeadline s) := by
  refine BoundedWork.result ?_
  split
  · exact BoundedWork.refl s
  · split
    · exact BoundedWork.refl s
    · split
      · exact BoundedWork.endProbe ..
      · exact BoundedWork.refl s

theorem naturalBoundary (turns : List SlotIndex) :
    Result.Bounded s (execNaturalBoundary turns s) := by
  refine BoundedWork.result ?_
  split
  · exact BoundedWork.boundary s turns
  · exact BoundedWork.refl s

theorem markEdge (level : Bool) (orders : EdgeOrders) :
    Result.Bounded s (execMarkEdge level orders s) := by
  refine BoundedWork.result ?_
  split
  · exact BoundedWork.refl s
  · exact BoundedWork.takeMark s level orders

theorem probeService : Result.Bounded s (execProbeService s) := by
  refine BoundedWork.result ?_
  split
  · rename_i due
    simp only [State.serviceDue, State.tableHasRoom, Bool.and_eq_true, decide_eq_true_eq] at due
    exact BoundedWork.serviceScan _ s due.2
  · exact BoundedWork.refl s

theorem storeWriteComplete (equal : Bool) : Result.Bounded s (execStoreWriteComplete equal s) := by
  refine BoundedWork.result ?_
  split
  · exact BoundedWork.refl s
  · exact BoundedWork.same rfl

theorem partnerHoldChange (port : Port) (asserted : Bool) :
    Result.Bounded s (execPartnerHoldChange port asserted s) := by
  refine BoundedWork.result ?_
  cases port <;> exact BoundedWork.same rfl

theorem transmitEnd (port : Port) : Result.Bounded s (execTransmitEnd port s) := by
  refine BoundedWork.result ?_
  cases port <;> exact BoundedWork.same rfl

theorem unknown : Result.Bounded s (execUnknown s) := by
  refine ⟨_, rfl, ?_⟩
  split
  · exact (BoundedWork.refl s).toBoundedStep
  · split
    · rename_i run
      exact BoundedStep.refuseCopy run.2 .unknown
    · exact (BoundedWork.refl s).toBoundedStep

/-- A management command whose rule does bounded work. -/
theorem command (k : CommandForm) {effect : State → CommandCopy → CommandResult}
    (h : ∀ c, (effect s c).Bounded s) : Result.Bounded s (.next (s.runCommand k effect)) :=
  ⟨_, rfl, BoundedStep.runCommand k h⟩

/-- A management command that carries a slot address, whose rule does bounded work. -/
theorem slotCommand (k : CommandForm) {rule : State → SlotIndex → CommandCopy → CommandResult}
    (h : ∀ s i c, (rule s i c).Bounded s) :
    Result.Bounded s (.next (s.runCommand k (slotRule rule))) :=
  command s k fun c => CommandResult.Bounded.slot s c h

end Result.Bounded

/-! ### Every command and every step -/

/-- Every command answers a next state, keeps the waiting commands and exceeds no capacity. -/
theorem exec_bounded (s : State) : ∀ c : Instr, Result.Bounded s (exec c s)
  | .powerOnReset lines => (BoundedWork.hardReset s .power lines).result
  | .lineReset lines => .lineReset s lines
  | .storeLoadComplete inputs => .storeLoadComplete s inputs
  | .claimTimeout => .claimTimeout s
  | .frameComplete port bytes => .frameComplete s port bytes
  | .frameOverrun port => (BoundedWork.frameEnds port (BoundedWork.countBad s port)).result
  | .takeUpFrame => .takeUpFrame s
  | .takeDownFrame removed judged => .takeDownFrame s removed judged
  | .upTransmitBegin => .upTransmitBegin s
  | .downTransmitBegin => .downTransmitBegin s
  | .tick => (BoundedWork.takeTick s).result
  | .entryDeadline slot tag => .entryDeadline s slot tag
  | .entryLoss slot tag => .entryLoss s slot tag
  | .twinWindowExpiry slot tag => .twinWindowExpiry s slot tag
  | .probeDeadline => .probeDeadline s
  | .naturalBoundary turns => .naturalBoundary s turns
  | .markEdge level orders => .markEdge s level orders
  | .probeService => .probeService s
  | .storeWriteComplete equal => .storeWriteComplete s equal
  | .enumerate => .command s _ (.enumerate s)
  | .identify => .command s _ (.identify s)
  | .claim => .command s _ (.claim s)
  | .release => .command s _ (.release s)
  | .reset => .command s _ (.reset s)
  | .setRange => .command s _ (.setRange s)
  | .setGroups => .command s _ (.setGroups s)
  | .setTiming => .command s _ (.setTiming s)
  | .writeProfile => .command s _ (.writeProfile s)
  | .readProfile => .command s _ (.readProfile s)
  | .writePolicy => .command s _ (.writePolicy s)
  | .readPolicy => .command s _ (.readPolicy s)
  | .commit => .command s _ (.commit s)
  | .admitSlot => .slotCommand s _ .admitSlot
  | .park => .slotCommand s _ .park
  | .fence => .slotCommand s _ .fence
  | .unfence => .slotCommand s _ .unfence
  | .vacate => .slotCommand s _ .vacate
  | .pair => .slotCommand s _ .pair
  | .unpair => .slotCommand s _ .unpair
  | .configureSlot => .slotCommand s _ .configure
  | .slotStatus => .slotCommand s _ .slotStatus
  | .readSample => .slotCommand s _ .readSample
  | .snapshot => .command s _ (.snapshot s)
  | .readSnapshot => .slotCommand s _ .readSnapshot
  | .probe => .slotCommand s _ .probe
  | .probeResult => .command s _ (.probeResult s)
  | .store => .command s _ (.store s)
  | .censusQuery => .command s _ (.censusQuery s)
  | .unknown => .unknown s
  | .partnerHoldChange port asserted => .partnerHoldChange s port asserted
  | .transmitEnd port => .transmitEnd s port

/-- Settles O58: the front command is bounded work on a state with the same lists, and so is a reference
clock period. -/
theorem everyStepKeepsTheCapacities : Obligations.EveryStepKeepsTheCapacities := by
  intro s t hs hstep
  unfold step at hstep
  split at hstep
  · obtain rfl := Host.Outcome.next.inj hstep
    exact (BoundedWork.refclkPeriod s).capacity hs
  · rename_i c rest _
    obtain ⟨u, run, bounded⟩ := exec_bounded { s with pending := rest } c
    obtain rfl := Host.Outcome.next.inj (hstep.symm.trans run)
    exact bounded.capacity { hs with }

end Sys2Proof.Machine

namespace Sys2Proof.Machine

/-! ### Commands whose event does not occur -/

/-- No frame is taken in STARTING, from an empty stage, or into a full buffer (R10, R199). -/
theorem execTakeUpFrame_untaken {s : State} (h : s.mgmt.mode = .starting ∨ s.trunk.upStage = none ∨
    8 ≤ s.trunk.descBuffer.length) : execTakeUpFrame s = .next s := by
  unfold execTakeUpFrame
  split
  · rfl
  · rename_i f staged
    rw [if_neg]
    rintro ⟨running, room⟩
    obtain starting | empty | full := h
    · exact running starting
    · simp [empty] at staged
    · exact absurd room (Nat.not_lt.mpr full)

/-- The same at DOWN. -/
theorem execTakeDownFrame_untaken {s : State} (h : s.mgmt.mode = .starting ∨ s.trunk.downStage = none ∨
    8 ≤ s.trunk.ascBuffer.length) (a b : Bool) : execTakeDownFrame a b s = .next s := by
  unfold execTakeDownFrame
  split
  · rfl
  · rename_i f staged
    rw [if_neg]
    rintro ⟨running, room⟩
    obtain starting | empty | full := h
    · exact running starting
    · simp [empty] at staged
    · exact absurd room (Nat.not_lt.mpr full)

/-- A copy waits in STARTING, or, needing a reply, while the reply queue is full (R181, R199). -/
theorem State.canExecute_eq_false {s : State} {c : CommandCopy}
    (h : s.mgmt.mode = .starting ∨ (s.needsReply c = true ∧ 4 ≤ s.mgmt.replyQueue.length)) :
    s.canExecute c = false := by
  unfold State.canExecute
  obtain starting | ⟨needs, full⟩ := h
  · simp [State.mode, starting]
  · have : ¬ s.mgmt.replyQueue.length < Config.replyCapacity := Nat.not_lt.mpr full
    simp [needs, this]

theorem State.needsReply_of_own {s : State} {c : CommandCopy} (h : c.arrived = .own) :
    s.needsReply c = true := by
  simp [State.needsReply, h]

/-- The end-of-chain monitor replies to an all-addressed ENUMERATE or CENSUS_QUERY (R181). -/
theorem State.needsReply_of_all {s : State} {c : CommandCopy} (h : c.arrived = .all)
    (strap : s.trunk.endStrap = true) (code : c.code? = some 0x01 ∨ c.code? = some 0x1D) :
    s.needsReply c = true := by
  obtain code | code := code <;> simp [State.needsReply, h, strap, code]

/-- A row of the catalogue does nothing when no copy of it that can be executed is in the buffer. -/
theorem State.runCommand_idle {s : State} (k : CommandForm)
    (effect : State → CommandCopy → CommandResult)
    (h : ∀ c, s.mgmt.command = some c → c.code? = some k.code → s.canExecute c = false) :
    s.runCommand k effect = s := by
  unfold State.runCommand
  split
  · rfl
  · rename_i c copy
    rw [if_neg]
    rintro ⟨code, can⟩
    exact absurd can (by simp [h c copy code])

theorem execUnknown_idle {s : State}
    (h : ∀ c, s.mgmt.command = some c → c.unassigned = true → s.canExecute c = false) :
    execUnknown s = .next s := by
  unfold execUnknown
  split
  · rfl
  · rename_i c copy
    rw [if_neg]
    rintro ⟨code, can⟩
    exact absurd can (by simp [h c copy code])

/-- Every row of the catalogue runs the copy in the buffer against its form (R180, R198). -/
theorem exec_commandForm : ∀ row ∈ commandForms, ∃ effect, ∀ s : State,
    exec row.1 s = .next (s.runCommand ⟨row.2.1, row.2.2.1, row.2.2.2⟩ effect) := by
  simp only [commandForms, commandFormsOne, commandFormsTwo, commandFormsThree, List.forall_mem_append,
    List.forall_mem_cons, List.not_mem_nil, false_implies, implies_true, and_true]
  and_intros <;> exact ⟨_, fun _ => rfl⟩

/-- Settles O3: no command faults or touches the queue, and each of those named finds its event missing. -/
theorem everyCommandAnswersAndKeepsTheQueue : Obligations.EveryCommandAnswersAndKeepsTheQueue := by
  refine ⟨fun c s => ?_, fun s => ⟨execTakeUpFrame_untaken, execTakeDownFrame_untaken⟩, fun s => ?_⟩
  · obtain ⟨t, run, bounded⟩ := exec_bounded s c
    exact ⟨t, run, bounded.pending⟩
  · intro head waits
    have head_eq : ∀ {c}, s.mgmt.command = some c → head = c.code? := fun copy => by
      simp [head, copy, CommandCopy.code?]
    have waiting : waits → ∀ c, s.mgmt.command = some c → s.canExecute c = false := by
      rintro (starting | ⟨full, c', copy', needs⟩) c copy
      · exact State.canExecute_eq_false (.inl starting)
      · obtain rfl := Option.some.inj (copy'.symm.trans copy)
        rw [head_eq copy] at needs
        obtain own | ⟨all, strap, code⟩ := needs
        · exact State.canExecute_eq_false (.inr ⟨State.needsReply_of_own own, full⟩)
        · exact State.canExecute_eq_false (.inr ⟨State.needsReply_of_all all strap code, full⟩)
    refine ⟨fun i code cls width row idle => ?_, fun idle => execUnknown_idle fun c copy unassigned => ?_⟩
    · obtain ⟨effect, run⟩ := exec_commandForm _ row
      rw [run, State.runCommand_idle]
      intro c copy mine
      obtain other | wait := idle
      · exact absurd ((head_eq copy).trans mine) other
      · exact waiting wait c copy
    · obtain empty | ⟨code, coded, first, last⟩ | wait := idle
      · simp [empty] at copy
      · rw [head_eq copy] at coded
        simp [CommandCopy.unassigned, coded, assignedCode, first, last] at unassigned
      · exact waiting wait c copy

end Sys2Proof.Machine

namespace Sys2Proof.Machine

/-! ### Power-on and line reset (R200) -/

@[simp] theorem State.slot_hardReset (s : State) (cause : StartCause) (lines : ResetLines) (i : SlotIndex) :
    (s.hardReset cause lines).slot i = SlotRecord.loaded SlotConfig.default := by
  simp [State.slot, State.hardReset]

@[simp] theorem State.request?_hardReset (s : State) (cause : StartCause) (lines : ResetLines)
    (i : SlotIndex) : (s.hardReset cause lines).request? i = none := by
  simp [State.request?, State.hardReset, ProbeEngine.afterReset]

/-- A store that is not writing keeps its image over a reset (R209). -/
theorem ConfigStore.afterReset_image {c : ConfigStore} (h : c.writing = none) :
    c.afterReset.image = c.image := by
  simp [ConfigStore.afterReset, h]

/-- A write cut short by a reset leaves a bad image (R212). -/
theorem ConfigStore.afterReset_cut {c : ConfigStore} (h : c.writing ≠ none) :
    c.afterReset.image.good = false := by
  simp [ConfigStore.afterReset, StoreImage.good, Option.isSome_iff_ne_none.mpr h]

/-- RST_N driven low: the reset of power-on with cause LINE, held (R200). -/
theorem execLineReset_low {s : State} (high : s.mgmt.resetHeld = false) (low e : Bool) :
    execLineReset ⟨true, e⟩ s = .next { s.hardReset .power ⟨low, e⟩ with
      mgmt := { (s.hardReset .power ⟨low, e⟩).mgmt with startCause := .line, resetHeld := true } } := by
  unfold execLineReset
  rw [if_neg (by simp [high]), if_pos rfl]
  rfl

/-- RST_N released: STARTING begins and END is sampled (R200, R201). -/
theorem execLineReset_release {s : State} (held : s.mgmt.resetHeld = true) (e : Bool) :
    execLineReset ⟨false, e⟩ s = .next (s.releaseReset e) := by
  unfold execLineReset
  rw [if_neg (by simp [held]), if_neg (by simp)]

/-- RST_N at the level it has is no event (log entry 2). -/
theorem execLineReset_same (s : State) (e : Bool) :
    execLineReset ⟨s.mgmt.resetHeld, e⟩ s = .next s := by
  unfold execLineReset
  rw [if_pos rfl]

/-- Settles O4: the reset state read block by block, and the three cases of LINE_RESET. -/
theorem powerOnAndLineReset : Obligations.PowerOnAndLineReset := by
  intro s low e
  have slots : ∀ i, (s.hardReset .power ⟨low, e⟩).slot i = SlotRecord.loaded SlotConfig.default :=
    s.slot_hardReset .power ⟨low, e⟩
  refine ⟨s.hardReset .power ⟨low, e⟩, rfl, fun high => execLineReset_low high low e,
    fun held => execLineReset_release held e, execLineReset_same s e, rfl, rfl, rfl, rfl,
    ⟨rfl, rfl, rfl, rfl, rfl, rfl, rfl⟩, rfl, fun i => ?_,
    ⟨rfl, rfl, s.request?_hardReset .power ⟨low, e⟩, rfl, rfl, rfl, rfl⟩, rfl,
    ⟨rfl, rfl, rfl, rfl, rfl, rfl⟩, rfl, rfl,
    ⟨rfl, rfl, ConfigStore.afterReset_image, ConfigStore.afterReset_cut⟩, rfl⟩
  rw [slots i]
  exact ⟨rfl, rfl, rfl, rfl, rfl, rfl, rfl, rfl, rfl, rfl, rfl, rfl, rfl, rfl, rfl, rfl, rfl, rfl, rfl,
    rfl, rfl⟩

end Sys2Proof.Machine

namespace Sys2Proof.Machine

/-! ### Byte fields (R1) -/

theorem be16_eq (n : Nat) : be16 n = [BitVec.ofNat 8 (n / 256 ^ 1), BitVec.ofNat 8 (n / 256 ^ 0)] := by
  simp [be16]

theorem be32_eq (n : Nat) : be32 n = [BitVec.ofNat 8 (n / 256 ^ 3), BitVec.ofNat 8 (n / 256 ^ 2),
    BitVec.ofNat 8 (n / 256 ^ 1), BitVec.ofNat 8 (n / 256 ^ 0)] := by
  simp [be32, be16, Nat.div_div_eq_div_mul]

theorem length_le32 (n : Nat) : (le32 n).length = 4 := rfl

/-- A two-byte field is read back. -/
theorem fromBE_be16 {n : Nat} (h : n < 65536) : fromBE (be16 n) = n := by
  simp [be16, fromBE]
  omega

/-- A four-byte field is read back. -/
theorem fromBE_be32 (x : BitVec 32) : BitVec.ofNat 32 (fromBE (be32 x.toNat)) = x := by
  have read : fromBE (be32 x.toNat) = x.toNat := by
    have := x.isLt
    simp [be32, be16, fromBE]
    omega
  rw [read, BitVec.ofNat_toNat, BitVec.setWidth_eq]

/-! ### Received frames (R5) -/

/-- The length field of received bytes, which R5 judges. -/
def lengthField (bs : List Byte) : Nat := fromBE (slice bs 6 2)

/-- Received bytes are not a good frame (R5). -/
def BadFrame (bs : List Byte) : Prop :=
  bs.length < 12 ∨ 1024 < lengthField bs ∨ bs.length - 12 ≠ lengthField bs ∨
    crc (bs.take (8 + lengthField bs)) ≠
      BitVec.ofNat 32 (fromBE (bs.drop (8 + lengthField bs)).reverse)

theorem parseFrame_bad {bs : List Byte} (h : BadFrame bs) : parseFrame bs = none := by
  unfold parseFrame
  dsimp only
  split
  · rfl
  · rename_i whole
    split
    · rfl
    · rename_i short
      split
      · rfl
      · rename_i counted
        split
        · rfl
        · rename_i checked
          rcases h with h | h | h | h
          · exact absurd h whole
          · exact absurd h short
          · exact absurd h counted
          · exact absurd h checked

theorem parseFrame_good {bs : List Byte} (h : ¬ BadFrame bs) :
    parseFrame bs = some
      { kind := (bs.headD 0).extractLsb' 4 4, cls := (bs.headD 0).extractLsb' 0 4,
        slot := (bs.drop 1).headD 0, tag := BitVec.ofNat 32 (fromBE (slice bs 2 4)),
        payload := slice bs 8 (lengthField bs), check := crc (bs.take (8 + lengthField bs)) } := by
  simp only [BadFrame, not_or] at h
  obtain ⟨whole, short, counted, checked⟩ := h
  unfold parseFrame
  dsimp only
  rw [if_neg whole, if_neg, if_neg, if_neg]
  · rfl
  · exact checked
  · exact counted
  · exact short

/-! ### Frames built and sent (R1, R3) -/

theorem mkFrame_bytes (kind : BitVec 4) (cls : TxClass) (slot : Byte) (tag : Tag) (payload : List Byte) :
    (mkFrame kind cls slot tag payload).bytes =
      ([kind ++ cls, slot] ++ be32 tag.toNat ++ be16 payload.length ++ payload) ++
        le32 (crc ([kind ++ cls, slot] ++ be32 tag.toNat ++ be16 payload.length ++ payload)).toNat := rfl

theorem length_mkFrame_bytes (kind : BitVec 4) (cls : TxClass) (slot : Byte) (tag : Tag)
    (payload : List Byte) : (mkFrame kind cls slot tag payload).bytes.length = 12 + payload.length := by
  rw [mkFrame_bytes]
  simp [be32_eq, be16_eq, length_le32]
  omega

theorem lengthField_mkFrame (kind : BitVec 4) (cls : TxClass) (slot : Byte) (tag : Tag)
    {payload : List Byte} (h : payload.length < 65536) :
    lengthField (mkFrame kind cls slot tag payload).bytes = payload.length := by
  rw [mkFrame_bytes]
  exact fromBE_be16 h

theorem take_mkFrame (kind : BitVec 4) (cls : TxClass) (slot : Byte) (tag : Tag) (payload : List Byte) :
    (mkFrame kind cls slot tag payload).bytes.take (8 + payload.length) =
      [kind ++ cls, slot] ++ be32 tag.toNat ++ be16 payload.length ++ payload := by
  rw [mkFrame_bytes, List.take_left']
  simp [be32_eq, be16_eq]
  omega

theorem drop_mkFrame (kind : BitVec 4) (cls : TxClass) (slot : Byte) (tag : Tag) (payload : List Byte) :
    (mkFrame kind cls slot tag payload).bytes.drop (8 + payload.length) =
      le32 (mkFrame kind cls slot tag payload).check.toNat := by
  rw [mkFrame_bytes, List.drop_left']
  · rfl
  · simp [be32_eq, be16_eq]
    omega

/-- A frame the monitor builds is a good one (R5). -/
theorem mkFrame_not_bad (kind : BitVec 4) (cls : TxClass) (slot : Byte) (tag : Tag)
    {payload : List Byte} (h : payload.length ≤ 1024) :
    ¬ BadFrame (mkFrame kind cls slot tag payload).bytes := by
  unfold BadFrame
  rw [lengthField_mkFrame kind cls slot tag (by omega), length_mkFrame_bytes, take_mkFrame,
    drop_mkFrame, le32, List.reverse_reverse, fromBE_be32]
  simp only [not_or, not_not]
  exact ⟨by omega, by omega, by omega, rfl⟩

/-- What the monitor sends is received as the frame it built (R1, R5). -/
theorem parseFrame_mkFrame (kind : BitVec 4) (cls : TxClass) (slot : Byte) (tag : Tag)
    {payload : List Byte} (h : payload.length ≤ 1024) :
    parseFrame (mkFrame kind cls slot tag payload).bytes = some (mkFrame kind cls slot tag payload) := by
  rw [parseFrame_good (mkFrame_not_bad kind cls slot tag h),
    lengthField_mkFrame kind cls slot tag (by omega), take_mkFrame]
  have tag_eq : BitVec.ofNat 32 (fromBE (slice (mkFrame kind cls slot tag payload).bytes 2 4)) = tag :=
    fromBE_be32 tag
  have payload_eq : slice (mkFrame kind cls slot tag payload).bytes 8 payload.length = payload := by
    show ((payload ++ le32 _).take payload.length) = payload
    exact List.take_left' rfl
  have kind_eq : (kind ++ cls).extractLsb' 4 4 = kind := BitVec.extractLsb'_append_eq_left
  have cls_eq : (kind ++ cls).extractLsb' 0 4 = cls := BitVec.extractLsb'_append_eq_right
  rw [tag_eq, payload_eq]
  show some (Frame.mk ((kind ++ cls).extractLsb' 4 4) ((kind ++ cls).extractLsb' 0 4) slot tag payload _) = _
  rw [kind_eq, cls_eq]
  rfl

/-- Settles O6: byte fields, codes and the two checks by computation; a frame built is cut up again as it was
put together. -/
theorem framesSentAreReceivedGood : Obligations.FramesSentAreReceivedGood := by
  refine ⟨fun n => ⟨by simp [be8], be16_eq n, be32_eq n⟩, fun c => ⟨?_, ?_⟩, by decide, by decide +kernel,
    by decide +kernel, fun kind cls slot tag payload => ⟨mkFrame_bytes .., fun h =>
      ⟨length_mkFrame_bytes .., parseFrame_mkFrame kind cls slot tag h⟩⟩⟩
  · simp [Counters.bytes2]
  · simp [Counters.bytes4]

end Sys2Proof.Machine

namespace Sys2Proof.Machine

/-! ### Reception at a port (R5, R6) -/

/-- In STARTING a frame that ends is nothing (R6). -/
theorem State.frameEnds_starting {s : State} (h : s.mgmt.mode = .starting) (p : Port) (judged : State) :
    s.frameEnds p judged = s := if_pos h

/-- The end of a frame that the partner began in STARTING (R6, R200). -/
theorem State.frameEnds_discarding {s : State} (h : s.mgmt.mode ≠ .starting) {p : Port}
    (discard : s.discarding p = true) (judged : State) : s.frameEnds p judged = s.endDiscard p :=
  (if_neg h).trans (if_pos discard)

theorem State.frameEnds_judged {s : State} (h : s.mgmt.mode ≠ .starting) {p : Port}
    (judge : s.discarding p = false) (judged : State) : s.frameEnds p judged = judged :=
  (if_neg h).trans (if_neg (by simp [judge]))

/-- Bytes that are a bad frame, or that end at an occupied stage, are counted (R5, R6; log entry 11). -/
theorem execFrameComplete_counted {s : State} (h : s.mgmt.mode ≠ .starting) {p : Port}
    (judge : s.discarding p = false) {bytes : List Byte} (bad : BadFrame bytes ∨ s.stage p ≠ none) :
    execFrameComplete p bytes s = .next (s.countBad p) := by
  unfold execFrameComplete
  rw [State.frameEnds_judged h judge]
  split
  · rfl
  · rename_i empty
    obtain bad | occupied := bad
    · rw [parseFrame_bad bad]
    · exact absurd (Option.isSome_iff_ne_none.mpr occupied) empty

/-- A good frame fills an empty stage (R5). -/
theorem execFrameComplete_staged {s : State} (h : s.mgmt.mode ≠ .starting) {p : Port}
    (judge : s.discarding p = false) {bytes : List Byte} {f : Frame} (good : parseFrame bytes = some f)
    (empty : s.stage p = none) : execFrameComplete p bytes s = .next (s.setStage f p) := by
  unfold execFrameComplete
  rw [State.frameEnds_judged h judge, if_neg (by simp [empty]), good]

/-- Settles O7: the two ports alike, by what `frameEnds` makes of the frame. -/
theorem receptionOfFrames : Obligations.ReceptionOfFrames := by
  intro s bytes
  refine ⟨fun starting p => ⟨?_, ?_⟩, fun running discard => ⟨?_, ?_⟩, fun running discard => ⟨?_, ?_⟩,
    fun running judge => ⟨?_, ?_, ?_⟩, fun running judge => ⟨?_, ?_, ?_⟩, fun good => ?_⟩
  · exact congrArg _ (State.frameEnds_starting starting p _)
  · exact congrArg _ (State.frameEnds_starting starting p _)
  · exact congrArg _ (State.frameEnds_discarding running (p := .up) discard _)
  · exact congrArg _ (State.frameEnds_discarding running (p := .up) discard _)
  · exact congrArg _ (State.frameEnds_discarding running (p := .down) discard _)
  · exact congrArg _ (State.frameEnds_discarding running (p := .down) discard _)
  · exact congrArg _ (State.frameEnds_judged running (p := .up) judge _)
  · exact execFrameComplete_counted running (p := .up) judge
  · exact fun f => execFrameComplete_staged running (p := .up) judge
  · exact congrArg _ (State.frameEnds_judged running (p := .down) judge _)
  · exact execFrameComplete_counted running (p := .down) judge
  · exact fun f => execFrameComplete_staged running (p := .down) judge
  · rw [parseFrame_good good]
    exact Option.some_ne_none _

end Sys2Proof.Machine

namespace Sys2Proof.Machine

/-! ### The ascending arbiter (R16, R17) -/

theorem State.upFree_iff {s : State} : s.upFree = true ↔
    s.mgmt.mode ≠ .starting ∧ s.trunk.upSending = none ∧ s.trunk.upHeld = false := by
  unfold State.upFree State.mode
  simp
  tauto

theorem State.downFree_iff {s : State} : s.downFree = true ↔
    s.mgmt.mode ≠ .starting ∧ s.trunk.downSending = none ∧ s.trunk.downHeld = false := by
  unfold State.downFree State.mode
  simp
  tauto

theorem State.insertedWaits_iff {s : State} : s.insertedWaits = true ↔
    ¬ (s.report.bounceQueue = [] ∧ s.mgmt.replyQueue = [] ∧ s.report.outbox = []) := by
  simp [State.insertedWaits]
  tauto

theorem execUpTransmitBegin_busy {s : State} (h : ¬ s.upFree = true) : execUpTransmitBegin s = .next s :=
  congrArg _ (if_pos (Bool.not_eq_true _ ▸ h))

/-- A free UP transmitter with a through frame: it goes unless an inserted frame has its turn (R17). -/
theorem execUpTransmitBegin_through {s : State} (free : s.upFree = true) {f : Frame} {rest : List Frame}
    (frames : s.trunk.ascBuffer = f :: rest)
    (turn : ¬ s.insertedWaits = true ∨ s.trunk.ascLast = .inserted) :
    execUpTransmitBegin s = .next { s with trunk := { s.trunk with
      ascBuffer := rest, upSending := some f, ascLast := .through } } := by
  have chosen : (s.insertedWaits && decide (s.trunk.ascLast = .through)) = false := by
    obtain nothing | last := turn
    · simp [nothing]
    · simp [last]
  unfold execUpTransmitBegin
  rw [if_neg (by simp [free]), if_neg (by simp [frames]), if_neg (by simp [chosen])]
  simp [State.sendThroughUp, frames, State.beginUp]

/-- A free UP transmitter where an inserted frame has its turn (R17). -/
theorem execUpTransmitBegin_inserted {s : State} (free : s.upFree = true)
    (turn : s.trunk.ascBuffer = [] ∨ (s.insertedWaits = true ∧ s.trunk.ascLast = .through)) :
    execUpTransmitBegin s = .next s.sendInserted := by
  unfold execUpTransmitBegin
  rw [if_neg (by simp [free])]
  split
  · rfl
  · rename_i frames
    obtain nothing | ⟨waits, last⟩ := turn
    · simp [nothing] at frames
    · rw [if_pos (by simp [waits, last])]

theorem State.sendInserted_none {s : State} (bounces : s.report.bounceQueue = [])
    (replies : s.mgmt.replyQueue = []) (alerts : s.report.outbox = []) : s.sendInserted = s := by
  simp [State.sendInserted, bounces, replies, alerts]

theorem State.sendInserted_bounce {s : State} {f : Frame} {rest : List Frame}
    (bounces : s.report.bounceQueue = f :: rest) : s.sendInserted = { s with
      trunk := { s.trunk with upSending := some f, ascLast := .inserted }
      report := { s.report with bounceQueue := rest } } := by
  simp [State.sendInserted, bounces, State.beginUp]

theorem State.sendInserted_reply {s : State} {f : Frame} {rest : List Frame}
    (bounces : s.report.bounceQueue = []) (replies : s.mgmt.replyQueue = f :: rest) :
    s.sendInserted = { s with
      trunk := { s.trunk with upSending := some f, ascLast := .inserted }
      mgmt := { s.mgmt with replyQueue := rest } } := by
  simp [State.sendInserted, bounces, replies, State.beginUp]

/-- The state in which an alert frame has just been begun, its place in the outbox free. -/
def State.alertBegun (s : State) (r : OutboxRecord) (rest : List OutboxRecord) : State :=
  { s with
    trunk := { s.trunk with upSending := some r.frame, ascLast := .inserted }
    report := { s.report with outbox := rest } }

theorem State.sendInserted_alert {s : State} {r : OutboxRecord} {rest : List OutboxRecord}
    (bounces : s.report.bounceQueue = []) (replies : s.mgmt.replyQueue = [])
    (alerts : s.report.outbox = r :: rest) : s.sendInserted =
      if 32 ≤ s.report.outbox.length then (s.alertBegun r rest).outboxFreed else s.alertBegun r rest := by
  simp [State.sendInserted, bounces, replies, alerts, State.beginUp, State.alertBegun,
    Config.outboxCapacity]

/-- A freed place with alerts lost takes the OVERFLOW record (R164). -/
theorem State.outboxFreed_lost {s : State} (lost : 0 < s.report.lostCount)
    (room : s.report.outbox.length < 32) : s.outboxFreed = { s with report := { s.report with
      outbox := s.report.outbox ++ [⟨.overflow s.report.lostCount, s.mgmt.chain⟩], lostCount := 0 } } := by
  unfold State.outboxFreed
  rw [if_pos lost, State.queueAlert_room]
  exact room

/-- A freed place with none lost and a CENSUS record owed takes that record (R164, R165). -/
theorem State.outboxFreed_owed {s : State} (lost : s.report.lostCount = 0)
    (owed : s.report.censusOwed = true) (room : s.report.outbox.length < 32) :
    s.outboxFreed = { s with report := { s.report with
      outbox := s.report.outbox ++ [⟨s.censusRecord s.report.owedVerdicts, s.mgmt.chain⟩],
      censusOwed := false, owedVerdicts := 0 } } := by
  unfold State.outboxFreed
  rw [if_neg (by simp [lost]), if_pos owed, State.queueAlert_room]
  exact room

theorem State.outboxFreed_none {s : State} (lost : s.report.lostCount = 0)
    (owed : s.report.censusOwed = false) : s.outboxFreed = s := by
  simp [State.outboxFreed, lost, owed]

/-! ### The descending arbiter (R16, R18) -/

theorem execDownTransmitBegin_busy {s : State} (h : ¬ s.downFree = true) :
    execDownTransmitBegin s = .next s :=
  congrArg _ (if_pos (Bool.not_eq_true _ ▸ h))

theorem execDownTransmitBegin_through {s : State} (free : s.downFree = true) {f : Frame}
    {rest : List Frame} (frames : s.trunk.descBuffer = f :: rest)
    (turn : s.engine.pendingFrame = none ∨ s.trunk.descLast = .inserted) :
    execDownTransmitBegin s = .next { s with trunk := { s.trunk with
      descBuffer := rest, downSending := some f, descLast := .through } } := by
  have chosen : (s.engine.pendingFrame.isSome && decide (s.trunk.descLast = .through)) = false := by
    obtain nothing | last := turn
    · simp [nothing]
    · simp [last]
  unfold execDownTransmitBegin
  rw [if_neg (by simp [free]), if_neg (by simp [frames]), if_neg (by simp [chosen])]
  simp [State.sendThroughDown, frames, State.beginDown]

/-- A free DOWN transmitter where the probe request, if there is one, has its turn (R18). -/
theorem execDownTransmitBegin_probe {s : State} (free : s.downFree = true)
    (turn : s.trunk.descBuffer = [] ∨ (s.engine.pendingFrame ≠ none ∧ s.trunk.descLast = .through)) :
    execDownTransmitBegin s = .next s.sendProbe := by
  unfold execDownTransmitBegin
  rw [if_neg (by simp [free])]
  split
  · rfl
  · rename_i frames
    obtain nothing | ⟨waits, last⟩ := turn
    · simp [nothing] at frames
    · rw [if_pos (by simp [Option.isSome_iff_ne_none.mpr waits, last])]

theorem State.sendProbe_none {s : State} (h : s.engine.pendingFrame = none) : s.sendProbe = s := by
  simp [State.sendProbe, h]

theorem State.sendProbe_some {s : State} {f : Frame} (h : s.engine.pendingFrame = some f) :
    s.sendProbe = { s with
      trunk := { s.trunk with downSending := some f, descLast := .inserted }
      engine := { s.engine with pendingFrame := none } } := by
  simp [State.sendProbe, h, State.beginDown]

/-! ### What does not begin, and asserted hold -/

/-- A transmitter that is not free, or has nothing to send, begins nothing (R9, R16; log entry 2). -/
theorem execUpTransmitBegin_nothing {s : State}
    (h : s.mgmt.mode = .starting ∨ s.trunk.upSending ≠ none ∨ s.trunk.upHeld = true ∨
      (s.trunk.ascBuffer = [] ∧ s.report.bounceQueue = [] ∧ s.mgmt.replyQueue = [] ∧
        s.report.outbox = [])) : execUpTransmitBegin s = .next s := by
  by_cases free : s.upFree = true
  · obtain ⟨running, idle, released⟩ := State.upFree_iff.mp free
    obtain starting | sending | held | ⟨frames, bounces, replies, alerts⟩ := h
    · exact absurd starting running
    · exact absurd idle sending
    · simp [held] at released
    · rw [execUpTransmitBegin_inserted free (.inl frames), State.sendInserted_none bounces replies alerts]
  · exact execUpTransmitBegin_busy free

theorem execDownTransmitBegin_nothing {s : State}
    (h : s.mgmt.mode = .starting ∨ s.trunk.downSending ≠ none ∨ s.trunk.downHeld = true ∨
      (s.trunk.descBuffer = [] ∧ s.engine.pendingFrame = none)) :
    execDownTransmitBegin s = .next s := by
  by_cases free : s.downFree = true
  · obtain ⟨running, idle, released⟩ := State.downFree_iff.mp free
    obtain starting | sending | held | ⟨frames, nothing⟩ := h
    · exact absurd starting running
    · exact absurd idle sending
    · simp [held] at released
    · rw [execDownTransmitBegin_probe free (.inl frames), State.sendProbe_none nothing]
  · exact execDownTransmitBegin_busy free

theorem State.assertsHold_up {s : State} : s.assertsHold .up = true ↔
    s.mgmt.mode = .starting ∨ s.trunk.upStage ≠ none ∨ 8 ≤ s.trunk.descBuffer.length := by
  unfold State.assertsHold State.mode Config.throughCapacity
  simp [Option.isSome_iff_ne_none, or_assoc]

theorem State.assertsHold_down {s : State} : s.assertsHold .down = true ↔
    s.mgmt.mode = .starting ∨ s.trunk.downStage ≠ none ∨ 8 ≤ s.trunk.ascBuffer.length := by
  unfold State.assertsHold State.mode Config.throughCapacity
  simp [Option.isSome_iff_ne_none, or_assoc]

/-! ### The choices of a free transmitter -/

/-- What a free UP transmitter sends of the three queues, when an inserted frame has its turn (R17, R164). -/
theorem execUpTransmitBegin_queues {s : State} (free : s.upFree = true)
    (turn : s.trunk.ascBuffer = [] ∨ s.trunk.ascLast = .through) :
    (∀ f rest, s.report.bounceQueue = f :: rest → execUpTransmitBegin s = .next { s with
      trunk := { s.trunk with upSending := some f, ascLast := .inserted }
      report := { s.report with bounceQueue := rest } }) ∧
    (∀ f rest, s.report.bounceQueue = [] → s.mgmt.replyQueue = f :: rest →
      execUpTransmitBegin s = .next { s with
        trunk := { s.trunk with upSending := some f, ascLast := .inserted }
        mgmt := { s.mgmt with replyQueue := rest } }) ∧
    (∀ r rest, s.report.bounceQueue = [] → s.mgmt.replyQueue = [] → s.report.outbox = r :: rest →
      execUpTransmitBegin s = .next (if 32 ≤ s.report.outbox.length
        then (s.alertBegun r rest).outboxFreed else s.alertBegun r rest)) := by
  have inserted : s.insertedWaits = true → execUpTransmitBegin s = .next s.sendInserted := fun waits =>
    execUpTransmitBegin_inserted free (turn.imp_right fun last => ⟨waits, last⟩)
  refine ⟨fun f rest bounces => ?_, fun f rest bounces replies => ?_,
    fun r rest bounces replies alerts => ?_⟩
  · rw [inserted (State.insertedWaits_iff.mpr (by simp [bounces])), State.sendInserted_bounce bounces]
  · rw [inserted (State.insertedWaits_iff.mpr (by simp [replies])),
      State.sendInserted_reply bounces replies]
  · rw [inserted (State.insertedWaits_iff.mpr (by simp [alerts])),
      State.sendInserted_alert bounces replies alerts]

/-- Settles O8: the arbiters by their cases, the queues in order, the freed place by what it takes. -/
theorem trunkArbiters : Obligations.TrunkArbiters := by
  refine ⟨fun s b => ⟨rfl, rfl, rfl, rfl⟩, fun s => ⟨execUpTransmitBegin_nothing,
    execDownTransmitBegin_nothing, State.assertsHold_up, State.assertsHold_down⟩,
    fun s running idle released => ?_, fun s running idle released => ?_, ?_, by decide⟩
  · have free : s.upFree = true := State.upFree_iff.mpr ⟨running, idle, released⟩
    refine ⟨fun f rest frames turn => execUpTransmitBegin_through free frames
      (turn.imp_left fun nothing waits => State.insertedWaits_iff.mp waits nothing), fun turn => ?_⟩
    obtain ⟨bounced, replied, alerted⟩ := execUpTransmitBegin_queues free turn
    refine ⟨bounced, replied, fun r rest bounces replies alerts => ?_⟩
    have begun := alerted r rest bounces replies alerts
    have shorter : s.report.outbox.length = 32 → rest.length < 32 := fun full => by
      rw [alerts, List.length_cons] at full
      omega
    refine ⟨fun calm => begun.trans ?_, fun full lost => begun.trans ?_,
      fun full lost owed => begun.trans ?_⟩
    · split
      · obtain room | ⟨lost, owed⟩ := calm
        · omega
        · exact congrArg _ (State.outboxFreed_none (s := s.alertBegun r rest) lost owed)
      · rfl
    · rw [if_pos full.ge]
      exact congrArg _ (State.outboxFreed_lost (s := s.alertBegun r rest) lost (shorter full))
    · rw [if_pos full.ge]
      exact congrArg _ (State.outboxFreed_owed (s := s.alertBegun r rest) lost owed (shorter full))
  · have free : s.downFree = true := State.downFree_iff.mpr ⟨running, idle, released⟩
    refine ⟨fun f rest frames turn => execDownTransmitBegin_through free frames turn,
      fun f pending turn => ?_⟩
    have waits : s.engine.pendingFrame ≠ none := by simp [pending]
    refine (execDownTransmitBegin_probe free (turn.imp_right fun last => ⟨waits, last⟩)).trans ?_
    rw [State.sendProbe_some pending]
  · intro chain own cause load m old addr figure suppressed count k applied was is partner tag why
      window c revision occupancy oldest least verdicts
    refine ⟨rfl, rfl, ?_, rfl, rfl, rfl, rfl⟩
    cases partner <;> cases tag <;> rfl

end Sys2Proof.Machine

namespace Sys2Proof.Machine

/-! ### Kinds of frames (R1) -/

theorem frameKind_req_iff {k : BitVec 4} : frameKind k = .req ↔ k = 1 := by revert k; decide
theorem frameKind_rsp_iff {k : BitVec 4} : frameKind k = .rsp ↔ k = 2 := by revert k; decide
theorem frameKind_mgt_iff {k : BitVec 4} : frameKind k = .mgt ↔ k = 4 := by revert k; decide
theorem frameKind_cen_iff {k : BitVec 4} : frameKind k = .cen ↔ k = 7 := by revert k; decide

/-! ### A frame taken at UP (R11) -/

/-- A frame in the stage is taken where the through buffer has a free place (R10, R11). -/
theorem execTakeUpFrame_taken {s : State} {f : Frame} (staged : s.trunk.upStage = some f)
    (running : s.mgmt.mode ≠ .starting) (room : s.trunk.descBuffer.length < 8) :
    execTakeUpFrame s = .next (s.classifyUp f) := by
  unfold execTakeUpFrame
  rw [staged]
  exact congrArg _ (if_pos ⟨running, room⟩)

theorem State.classifyUp_req {s : State} {f : Frame} (h : f.kind = 1) :
    s.classifyUp f = s.takeRequest f := by
  unfold State.classifyUp
  rw [frameKind_req_iff.mpr h]

theorem State.classifyUp_mgt {s : State} {f : Frame} (h : f.kind = 4) :
    s.classifyUp f = s.takeCommand f := by
  unfold State.classifyUp
  rw [frameKind_mgt_iff.mpr h]

/-- Kinds other than REQ and MGT pass UP's classifier (R11). -/
theorem State.classifyUp_other {s : State} {f : Frame} (req : f.kind ≠ 1) (mgt : f.kind ≠ 4) :
    s.classifyUp f = s.clearUpStage.forwardDown f := by
  unfold State.classifyUp
  split
  · exact absurd (frameKind_req_iff.mp ‹_›) req
  · exact absurd (frameKind_mgt_iff.mp ‹_›) mgt
  all_goals rfl

/-- A REQ outside WATCHING or outside the watch range is forwarded (R11). -/
theorem State.takeRequest_forwarded {s : State} {f : Frame}
    (h : s.mgmt.mode ≠ .watching ∨ s.OutsideRange f.slot) :
    s.takeRequest f = s.clearUpStage.forwardDown f := by
  unfold State.takeRequest
  split
  · rename_i watching
    obtain other | outside := h
    · exact absurd watching other
    · rw [State.slotIndex?_of_outside outside]
  · rfl

/-- A REQ to a slot of the watch range goes to admission (R11, R39). -/
theorem State.takeRequest_admitted {s : State} {f : Frame} {i : SlotIndex}
    (watching : s.mgmt.mode = .watching) (addressed : s.Addresses f.slot i) :
    s.takeRequest f = s.carryAdmission i f := by
  unfold State.takeRequest
  rw [if_pos (show s.mode = .watching from watching), State.slotIndex?_of_addresses addressed]

/-- A REQ to a slot of the watch range, taken in WATCHING, is admission carried out (R39). -/
theorem execTakeUpFrame_request {s : State} {f : Frame} {i : SlotIndex}
    (staged : s.trunk.upStage = some f) (req : f.kind = 1) (watching : s.mgmt.mode = .watching)
    (room : s.trunk.descBuffer.length < 8) (addressed : s.Addresses f.slot i) :
    execTakeUpFrame s = .next (s.carryAdmission i f) := by
  rw [execTakeUpFrame_taken staged (by simp [watching]) room, State.classifyUp_req req,
    State.takeRequest_admitted watching addressed]

/-! ### Admission, test by test (R39 to R45) -/

section Admission

variable {s : State} {i j : SlotIndex} {f : Frame} {e : Entry}

/-- A foreign probe passes a VACANT or an accepting slot (R40). -/
theorem State.admission_foreign (foreign : tagMarker f.tag = s.engine.marker)
    (passes : (s.slot i).state = .vacant ∨ (s.slot i).state.accepting = true) :
    s.admission i f = .untracked := by
  unfold State.admission
  dsimp only
  rw [if_pos foreign, if_pos passes]

/-- A VACANT slot is not watched (R41). -/
theorem State.admission_vacant (vacant : (s.slot i).state = .vacant) : s.admission i f = .untracked := by
  unfold State.admission
  dsimp only
  by_cases foreign : tagMarker f.tag = s.engine.marker
  · rw [if_pos foreign, if_pos (.inl vacant)]
  · rw [if_neg foreign, if_pos vacant]

theorem SlotState.accepting_ne_vacant {st : SlotState} (h : st.accepting = true) : st ≠ .vacant := by
  rintro rfl
  cases h

/-- A request to an accepting slot comes to the tests of R44 to R46. -/
theorem State.admission_accepting (own : tagMarker f.tag ≠ s.engine.marker)
    (accepting : (s.slot i).state.accepting = true) : s.admission i f = s.acceptance i f := by
  unfold State.admission
  dsimp only
  rw [if_neg own, if_neg (SlotState.accepting_ne_vacant accepting), if_neg (by simp [accepting])]

theorem State.acceptance_unwatched (unwatched : (s.profile f.cls).watched = false) :
    s.acceptance i f = .untracked := if_pos unwatched

/-- A REQ under the key of a PROBE entry is forwarded (R44). -/
theorem State.acceptance_probe (found : s.findEntry i f.tag = some e) (kind : e.kind = .probe) :
    s.acceptance i f = .untracked := by
  unfold State.acceptance
  split
  · rfl
  · rw [found]
    simp [kind]

end Admission

/-- The REQs that pass UP untracked at a slot of the watch range (R40, R41, R44). -/
theorem State.admission_untracked {s : State} {i : SlotIndex} {f : Frame}
    (h : (s.slot i).state = .vacant ∨
      ((s.slot i).state.accepting = true ∧ tagMarker f.tag = s.engine.marker) ∨
      ((s.slot i).state.accepting = true ∧ (s.profile f.cls).watched = false) ∨
      ((s.slot i).state.accepting = true ∧ ∃ e, s.findEntry i f.tag = some e ∧ e.kind = .probe)) :
    s.admission i f = .untracked := by
  by_cases foreign : tagMarker f.tag = s.engine.marker
  · refine State.admission_foreign foreign ?_
    obtain vacant | ⟨accepting, -⟩ | ⟨accepting, -⟩ | ⟨accepting, -⟩ := h
    · exact .inl vacant
    all_goals exact .inr accepting
  · obtain vacant | ⟨-, marker⟩ | ⟨accepting, unwatched⟩ | ⟨accepting, e, found, kind⟩ := h
    · exact State.admission_vacant vacant
    · exact absurd marker foreign
    · rw [State.admission_accepting foreign accepting, State.acceptance_unwatched unwatched]
    · rw [State.admission_accepting foreign accepting, State.acceptance_probe found kind]

theorem State.carryAdmission_untracked {s : State} {i : SlotIndex} {f : Frame}
    (h : s.admission i f = .untracked) : s.carryAdmission i f = s.clearUpStage.forwardDown f := by
  unfold State.carryAdmission
  rw [h]

/-! ### A frame taken at DOWN (R12) -/

theorem execTakeDownFrame_taken {s : State} {f : Frame} (staged : s.trunk.downStage = some f)
    (running : s.mgmt.mode ≠ .starting) (room : s.trunk.ascBuffer.length < 8) (a b : Bool) :
    execTakeDownFrame a b s = .next (s.classifyDown f a b) := by
  unfold execTakeDownFrame
  rw [staged]
  exact congrArg _ (if_pos ⟨running, room⟩)

theorem State.classifyDown_rsp {s : State} {f : Frame} (h : f.kind = 2) (a b : Bool) :
    s.classifyDown f a b = s.takeResponse f a b := by
  unfold State.classifyDown
  rw [frameKind_rsp_iff.mpr h]

theorem State.classifyDown_cen {s : State} {f : Frame} (h : f.kind = 7) (a b : Bool) :
    s.classifyDown f a b = s.clearDownStage.forwardUp (s.mergedFrame f) := by
  unfold State.classifyDown
  rw [frameKind_cen_iff.mpr h]

/-- Kinds other than RSP and CEN pass DOWN's classifier (R12). -/
theorem State.classifyDown_other {s : State} {f : Frame} (rsp : f.kind ≠ 2) (cen : f.kind ≠ 7)
    (a b : Bool) : s.classifyDown f a b = s.clearDownStage.forwardUp f := by
  unfold State.classifyDown
  split
  · exact absurd (frameKind_rsp_iff.mp ‹_›) rsp
  · exact absurd (frameKind_cen_iff.mp ‹_›) cen
  all_goals rfl

/-- A CEN frame of another length is not merged (R176). -/
theorem State.mergedFrame_other {s : State} {f : Frame} (h : f.payload.length ≠ 25) :
    s.mergedFrame f = f := if_neg h

/-- An RSP outside WATCHING or outside the watch range is forwarded (R12). -/
theorem State.takeResponse_forwarded {s : State} {f : Frame}
    (h : s.mgmt.mode ≠ .watching ∨ s.OutsideRange f.slot) (a b : Bool) :
    s.takeResponse f a b = s.clearDownStage.forwardUp f := by
  unfold State.takeResponse
  split
  · rename_i watching
    obtain other | outside := h
    · exact absurd watching other
    · rw [State.slotIndex?_of_outside outside]
  · rfl

/-- An RSP from a slot of the watch range goes to matching (R12, R48). -/
theorem State.takeResponse_matched {s : State} {f : Frame} {i : SlotIndex}
    (watching : s.mgmt.mode = .watching) (addressed : s.Addresses f.slot i) (a b : Bool) :
    s.takeResponse f a b = s.carryMatching i f a b := by
  unfold State.takeResponse
  rw [if_pos (show s.mode = .watching from watching), State.slotIndex?_of_addresses addressed]

theorem State.carryMatching_untracked {s : State} {i : SlotIndex} {f : Frame}
    (h : s.matching i f = .untracked) (a b : Bool) :
    s.carryMatching i f a b = s.clearDownStage.forwardUp f := by
  unfold State.carryMatching
  dsimp only
  rw [h]

/-! ### Matching, test by test (R48 to R51) -/

section Matching

variable {s : State} {i : SlotIndex} {f : Frame}

theorem State.probeEntryHas_of_request
    (h : ∀ e, s.findEntry i f.tag = some e → e.kind = .request) : s.probeEntryHas i f.tag = false := by
  unfold State.probeEntryHas
  split
  · rename_i e found
    simp [h e found]
  · rfl

/-- Another monitor's probe answer passes (R49). -/
theorem State.matching_foreign (request : s.probeEntryHas i f.tag = false)
    (marker : tagMarker f.tag = s.engine.marker) (chain : tagChain f.tag ≠ s.mgmt.chain) :
    s.matching i f = .untracked := by
  unfold State.matching
  rw [if_neg (by simp [request, chain]), if_pos marker]

/-- An answer that carries no probe marker comes to the tests by slot state (R50). -/
theorem State.matching_own (request : s.probeEntryHas i f.tag = false)
    (marker : tagMarker f.tag ≠ s.engine.marker) : s.matching i f =
      if (s.slot i).state = .vacant ∨ (s.slot i).state = .parked then .untracked
      else if (s.slot i).state = .fenced then .absorbed
      else s.matchEntry i f := by
  unfold State.matching
  rw [if_neg (by simp [request, marker]), if_neg marker]

theorem State.matchEntry_unwatched (absent : s.findEntry i f.tag = none)
    (unwatched : (s.profile f.cls).watched = false) : s.matchEntry i f = .untracked := by
  unfold State.matchEntry
  rw [absent]
  exact if_pos unwatched

/-- The RSPs that pass DOWN untracked at a slot of the watch range (R49, R50, R51). -/
theorem State.matching_untracked (request : s.probeEntryHas i f.tag = false)
    (h : (tagMarker f.tag = s.engine.marker ∧ tagChain f.tag ≠ s.mgmt.chain) ∨
      (tagMarker f.tag ≠ s.engine.marker ∧ ((s.slot i).state = .vacant ∨ (s.slot i).state = .parked)) ∨
      (tagMarker f.tag ≠ s.engine.marker ∧ (s.slot i).state ≠ .fenced ∧
        (s.profile f.cls).watched = false ∧ s.findEntry i f.tag = none)) :
    s.matching i f = .untracked := by
  obtain ⟨marker, chain⟩ | ⟨marker, state⟩ | ⟨marker, unfenced, unwatched, absent⟩ := h
  · exact State.matching_foreign request marker chain
  · rw [State.matching_own request marker, if_pos state]
  · rw [State.matching_own request marker, if_neg unfenced, State.matchEntry_unwatched absent unwatched,
      ite_self]

end Matching

/-- Settles O10: each frame comes to the test that lets it pass. -/
theorem framesForwardedUntracked : Obligations.FramesForwardedUntracked := by
  refine ⟨fun s f staged running => ⟨fun full => execTakeUpFrame_untaken (.inr (.inr full)),
    fun room passes => (execTakeUpFrame_taken staged running room).trans ?_⟩,
    fun s f a b staged running => ⟨fun full => execTakeDownFrame_untaken (.inr (.inr full)) a b,
      fun room passes => (execTakeDownFrame_taken staged running room a b).trans ?_⟩⟩
  · suffices passed : s.classifyUp f = s.clearUpStage.forwardDown f from congrArg _ passed
    obtain ⟨req, mgt⟩ | ⟨req, other⟩ | ⟨req, outside⟩ | ⟨req, i, addressed, untracked⟩ := passes
    · exact State.classifyUp_other req mgt
    · rw [State.classifyUp_req req, State.takeRequest_forwarded (.inl other)]
    · rw [State.classifyUp_req req, State.takeRequest_forwarded (.inr outside)]
    · rw [State.classifyUp_req req]
      by_cases watching : s.mgmt.mode = .watching
      · rw [State.takeRequest_admitted watching addressed,
          State.carryAdmission_untracked (State.admission_untracked untracked)]
      · exact State.takeRequest_forwarded (.inl watching)
  · suffices passed : s.classifyDown f a b = s.clearDownStage.forwardUp f from congrArg _ passed
    obtain ⟨rsp, cen⟩ | ⟨cen, length⟩ | ⟨rsp, other⟩ | ⟨rsp, outside⟩ |
      ⟨rsp, i, addressed, request, untracked⟩ := passes
    · exact State.classifyDown_other rsp cen a b
    · rw [State.classifyDown_cen cen, State.mergedFrame_other length]
    · rw [State.classifyDown_rsp rsp, State.takeResponse_forwarded (.inl other)]
    · rw [State.classifyDown_rsp rsp, State.takeResponse_forwarded (.inr outside)]
    · rw [State.classifyDown_rsp rsp]
      by_cases watching : s.mgmt.mode = .watching
      · rw [State.takeResponse_matched watching addressed, State.carryMatching_untracked
          (State.matching_untracked (State.probeEntryHas_of_request request) untracked)]
      · exact State.takeResponse_forwarded (.inl watching) a b

end Sys2Proof.Machine

namespace Sys2Proof.Machine

/-! ### The destination of an MGT frame (R2, R14, R15) -/

section Destination

variable {s : State} {code : Byte}

theorem State.destination_all : s.destination 0xFF = some .all := if_pos rfl

theorem ne_all_of_lt (h : code.toNat < 0xFF) : code ≠ 0xFF := by
  rintro rfl
  exact absurd h (by decide)

/-- A code is the chain address, as a byte, when the numbers agree. -/
theorem eq_chain_iff (chain : ChainAddr) : code = chain.zeroExtend 8 ↔ code.toNat = chain.toNat := by
  have := chain.isLt
  rw [← BitVec.toNat_inj, BitVec.toNat_setWidth, Nat.mod_eq_of_lt (by omega)]

theorem State.destination_own (assigned : s.mgmt.chain ≠ 0) (own : code.toNat = s.mgmt.chain.toNat) :
    s.destination code = some .own := by
  have := s.mgmt.chain.isLt
  unfold State.destination
  rw [if_neg (ne_all_of_lt (by omega)), if_pos ⟨assigned, (eq_chain_iff _).mpr own⟩]

theorem State.destination_group {g : Fin 4} (group : code.toNat = 0x40 + g.val)
    (member : s.mgmt.groups.getLsbD g.val = true) : s.destination code = some .group := by
  have := s.mgmt.chain.isLt
  have := g.isLt
  unfold State.destination
  rw [if_neg (ne_all_of_lt (by omega)), if_neg, if_pos]
  · refine ⟨by omega, by omega, ?_⟩
    rw [group, Nat.add_sub_cancel_left]
    exact member
  · rintro ⟨-, own⟩
    rw [eq_chain_iff] at own
    omega

/-- A code that is neither all, nor the chain address, nor a group of this monitor. -/
theorem State.destination_none (all : code ≠ 0xFF)
    (own : s.mgmt.chain = 0 ∨ code.toNat ≠ s.mgmt.chain.toNat)
    (groups : ∀ g : Fin 4, code.toNat = 0x40 + g.val → s.mgmt.groups.getLsbD g.val = false) :
    s.destination code = none := by
  unfold State.destination
  rw [if_neg all, if_neg, if_neg]
  · rintro ⟨low, high, member⟩
    have outside := groups ⟨code.toNat - 0x40, by omega⟩ (by simp only; omega)
    exact absurd member (by simp [outside])
  · rintro ⟨assigned, chain⟩
    obtain unassigned | other := own
    · exact assigned unassigned
    · exact other ((eq_chain_iff _).mp chain)

end Destination

/-! ### An MGT frame taken at UP (R14, R15, R187) -/

/-- The end of an MGT frame that is not consumed: the stage empty, and `g` forwarded but by the
end-of-chain monitor. -/
def State.passedOn (s : State) (g : Frame) : State :=
  { s with trunk := { s.trunk with
      upStage := none
      descBuffer := if s.trunk.endStrap = true then s.trunk.descBuffer else s.trunk.descBuffer ++ [g] } }

theorem State.passedOn_eq (s : State) (g : Frame) :
    s.passedOn g = if s.trunk.endStrap = true then s.clearUpStage else s.clearUpStage.forwardDown g := by
  unfold State.passedOn
  split <;> rfl

/-- The command buffer and the receive stage do not touch one another. -/
theorem State.bufferCommand_clearUpStage (s : State) (f : Frame) (how : Addressing) :
    s.clearUpStage.bufferCommand f how = (s.bufferCommand f how).clearUpStage := by
  unfold State.bufferCommand
  rw [show s.clearUpStage.mgmt.command = s.mgmt.command from rfl]
  cases s.mgmt.command <;> rfl

theorem State.takeCommand_own {s : State} {f : Frame} (h : s.destination f.slot = some .own) :
    s.takeCommand f = (s.bufferCommand f .own).clearUpStage := by
  unfold State.takeCommand
  rw [h, ← State.bufferCommand_clearUpStage]

theorem State.takeCommand_copied {s : State} {f : Frame} {how : Addressing}
    (h : s.destination f.slot = some how) (shared : how ≠ .own) :
    s.takeCommand f = (s.bufferCommand f how).passedOn (forwardedCommand how f) := by
  rw [State.passedOn_eq, State.bufferCommand_trunk, ← State.bufferCommand_clearUpStage]
  unfold State.takeCommand
  rw [h]
  cases how
  · exact absurd rfl shared
  · rfl
  · rfl

theorem State.takeCommand_passed {s : State} {f : Frame} (h : s.destination f.slot = none) :
    s.takeCommand f = s.passedOn f := by
  rw [State.passedOn_eq]
  unfold State.takeCommand
  rw [h]

/-- An all-addressed ENUMERATE of a 2-byte payload goes on with n + 1 (R187). -/
theorem forwardedCommand_enumerate {f : Frame} {n : Byte} (h : f.payload = [0x01, n]) :
    forwardedCommand .all f =
      Frame.withCheck { f with payload := [0x01, BitVec.ofNat 8 (min 255 (n.toNat + 1))] } := by
  unfold forwardedCommand
  rw [h]
  rfl

/-- Any other all-addressed frame goes on as it came. -/
theorem forwardedCommand_other {f : Frame} (h : ∀ n, f.payload ≠ [0x01, n]) :
    forwardedCommand .all f = f := by
  unfold forwardedCommand
  split
  · rename_i c n _ payload
    split
    · rename_i code
      exact absurd (code ▸ payload) (h n)
    · rfl
  · rfl

theorem execTakeUpFrame_command {s : State} {f : Frame} (staged : s.trunk.upStage = some f)
    (mgt : f.kind = 4) (running : s.mgmt.mode ≠ .starting) (room : s.trunk.descBuffer.length < 8) :
    execTakeUpFrame s = .next (s.takeCommand f) := by
  rw [execTakeUpFrame_taken staged running room, State.classifyUp_mgt mgt]

/-- Settles O11: the destination code decides, and the copy and the forwarded frame follow. -/
theorem managementFramesTakenAtUp : Obligations.ManagementFramesTakenAtUp := by
  intro s f staged mgt running room copied consumed passed
  have taken := execTakeUpFrame_command staged mgt running room
  have copied_eq : ∀ how, copied how = s.bufferCommand f how := fun how => by
    cases held : s.mgmt.command with
    | none => simp [copied, State.bufferCommand, held]
    | some c => simp [copied, State.bufferCommand, held, State.setCmdDropped, State.setFlags]
  have passed_eq : ∀ (how : Addressing) (g : Frame),
      passed (copied how) g = (s.bufferCommand f how).passedOn g := fun how g => by
    rw [copied_eq, State.passedOn, State.bufferCommand_trunk]
    simp only [passed, State.bufferCommand_trunk]
  refine ⟨fun assigned own => taken.trans ?_, fun g group member => taken.trans ?_,
    fun all other => taken.trans ?_, fun all n enumerate => taken.trans ?_,
    fun all own groups => taken.trans ?_⟩
  · rw [State.takeCommand_own (State.destination_own assigned own), copied_eq]
    rfl
  · rw [passed_eq, State.takeCommand_copied (State.destination_group group member) (by decide)]
    rfl
  · rw [passed_eq, State.takeCommand_copied (all ▸ State.destination_all) (by decide),
      forwardedCommand_other other]
  · rw [passed_eq, State.takeCommand_copied (all ▸ State.destination_all) (by decide),
      forwardedCommand_enumerate enumerate]
  · rw [State.takeCommand_passed (State.destination_none all own groups)]
    rfl

end Sys2Proof.Machine

namespace Sys2Proof.Machine

/-! ### Room in the table (R35) -/

theorem State.tableHasRoom_iff {s : State} : s.tableHasRoom = true ↔ s.table.length < 2048 :=
  decide_eq_true_iff

theorem State.not_tableHasRoom (s : State) : (!s.tableHasRoom) = decide (2048 ≤ s.table.length) := by
  rw [Bool.eq_iff_iff, Bool.not_eq_true', decide_eq_true_iff, ← Nat.not_lt, ← State.tableHasRoom_iff,
    Bool.not_eq_true]

/-! ### Refusing slots (R40, R42) -/

/-- The states that refuse a request. -/
abbrev SlotState.refuses (st : SlotState) : Prop := st = .parked ∨ st = .draining ∨ st = .fenced

theorem SlotState.refuses_closed {st : SlotState} (h : st.refuses) :
    st ≠ .vacant ∧ st.accepting = false := by
  obtain rfl | rfl | rfl := h <;> exact ⟨by decide, rfl⟩

/-- The reason that a refusing state gives, by its code (R175). -/
theorem SlotState.refusal_code {st : SlotState} {reason : Nat} (h : (st = .parked ∧ reason = 3) ∨
    (st = .draining ∧ reason = 4) ∨ (st = .fenced ∧ reason = 5)) :
    st.refuses ∧ st.refusal.code = reason := by
  obtain ⟨rfl, rfl⟩ | ⟨rfl, rfl⟩ | ⟨rfl, rfl⟩ := h
  · exact ⟨.inl rfl, rfl⟩
  · exact ⟨.inr (.inl rfl), rfl⟩
  · exact ⟨.inr (.inr rfl), rfl⟩

/-! ### Admission to a refusing slot, test by test (R40, R42, R43) -/

section Redirection

variable {s : State} {i j : SlotIndex} {f : Frame} {e : Entry}

/-- A foreign probe to a refusing slot is bounced (R40). -/
theorem State.admission_foreign_refused (foreign : tagMarker f.tag = s.engine.marker)
    (refuses : (s.slot i).state.refuses) :
    s.admission i f = .bounce (s.slot i).state.refusal false := by
  obtain ⟨vacant, closed⟩ := SlotState.refuses_closed refuses
  unfold State.admission
  dsimp only
  rw [if_pos foreign, if_neg (by simp [vacant, closed])]

/-- A request to a refusing slot comes to the redirect decision (R42). -/
theorem State.admission_refusing (own : tagMarker f.tag ≠ s.engine.marker)
    (refuses : (s.slot i).state.refuses) : s.admission i f = s.redirection i f := by
  obtain ⟨vacant, closed⟩ := SlotState.refuses_closed refuses
  unfold State.admission
  dsimp only
  rw [if_neg own, if_neg vacant, if_pos closed]

theorem State.redirection_alone (alone : (s.slot i).config.standIn = none) :
    s.redirection i f = .bounce (s.slot i).state.refusal false := by
  unfold State.redirection
  rw [alone]

theorem State.redirection_closed (standIn : (s.slot i).config.standIn = some j)
    (closed : (s.slot j).state.accepting = false) :
    s.redirection i f = .bounce .standInRefused false := by
  unfold State.redirection
  rw [standIn]
  exact if_pos closed

/-- An accepting stand-in with an entry under the tag: a retry, the retry limit, or a probe (R43). -/
theorem State.redirection_found (standIn : (s.slot i).config.standIn = some j)
    (accepting : (s.slot j).state.accepting = true) (found : s.findEntry j f.tag = some e) :
    s.redirection i f =
      if e.kind = .probe then .bounce .standInRefused false
      else if e.retries < Config.retryLimit then .redirectRetry j
      else .bounce .retryLimit false := by
  unfold State.redirection
  rw [standIn]
  simp only [accepting, found]
  cases e.kind <;> simp

/-- An accepting stand-in without an entry under the tag: untracked, a place, or none (R43). -/
theorem State.redirection_absent (standIn : (s.slot i).config.standIn = some j)
    (accepting : (s.slot j).state.accepting = true) (absent : s.findEntry j f.tag = none) :
    s.redirection i f =
      if (s.profile f.cls).watched = false then .redirectUntracked j
      else if (s.slot j).requestCount < (s.slot j).ceiling ∧ s.tableHasRoom = true then
        .redirectCreate j
      else .bounce .standInRefused (!s.tableHasRoom) := by
  unfold State.redirection
  rw [standIn]
  simp [accepting, absent]

end Redirection

/-! ### Admission to an accepting slot, test by test (R44, R45) -/

section Acceptance

variable {s : State} {i : SlotIndex} {f : Frame} {e : Entry}

theorem State.acceptance_limit (watched : (s.profile f.cls).watched = true)
    (found : s.findEntry i f.tag = some e) (request : e.kind = .request) (limit : 3 ≤ e.retries) :
    s.acceptance i f = .bounce .retryLimit false := by
  unfold State.acceptance
  rw [if_neg (by simp [watched]), found]
  simp only [request]
  exact if_neg (Nat.not_lt.mpr limit)

theorem State.acceptance_ceiling (watched : (s.profile f.cls).watched = true)
    (absent : s.findEntry i f.tag = none) (ceiling : (s.slot i).ceiling ≤ (s.slot i).requestCount) :
    s.acceptance i f = .bounce .ceiling false := by
  unfold State.acceptance
  rw [if_neg (by simp [watched]), absent]
  exact if_pos ceiling

theorem State.acceptance_tableFull (watched : (s.profile f.cls).watched = true)
    (absent : s.findEntry i f.tag = none) (place : (s.slot i).requestCount < (s.slot i).ceiling)
    (full : 2048 ≤ s.table.length) : s.acceptance i f = .bounce .tableFull true := by
  unfold State.acceptance
  have noRoom : s.tableHasRoom = false := by
    rw [← Bool.not_eq_true, State.tableHasRoom_iff]
    exact Nat.not_lt.mpr full
  rw [if_neg (by simp [watched]), absent]
  exact (if_neg (Nat.not_le.mpr place)).trans (if_pos noRoom)

end Acceptance

/-! ### A bounce carried out (R47, R168) -/

theorem State.carryAdmission_bounced {s : State} {i : SlotIndex} {f : Frame} {reason : BounceReason}
    {full : Bool} (h : s.admission i f = .bounce reason full)
    (room : s.report.bounceQueue.length < 16) :
    s.carryAdmission i f = s.clearUpStage.placeBounce i f reason full := by
  unfold State.carryAdmission
  rw [h]
  exact if_pos room

/-- A bounce that finds the queue full waits (R10). -/
theorem State.carryAdmission_waits {s : State} {i : SlotIndex} {f : Frame} {reason : BounceReason}
    {full : Bool} (h : s.admission i f = .bounce reason full)
    (queue : 16 ≤ s.report.bounceQueue.length) : s.carryAdmission i f = s := by
  unfold State.carryAdmission
  rw [h]
  exact if_neg (Nat.not_lt.mpr queue)

theorem State.bounceFrame_eq (s : State) (f : Frame) (reason : BounceReason) :
    s.bounceFrame f reason =
      mkFrame 3 f.cls f.slot f.tag [BitVec.ofNat 8 reason.code, s.mgmt.chain.zeroExtend 8] := by
  unfold State.bounceFrame
  rw [show be8 s.mgmt.chain.toNat = [s.mgmt.chain.zeroExtend 8] from
    congrArg (fun b => [b]) (BitVec.ofNat_toNat 8 _)]
  rfl

/-- What a placed bounce leaves: the BNC frame queued, the bounce credited, TABLE_FULL as told. -/
theorem State.placeBounce_eq (s : State) (i : SlotIndex) (f : Frame) (reason : BounceReason)
    (full : Bool) : s.placeBounce i f reason full = { s with
      report := { s.report with bounceQueue := s.report.bounceQueue ++
        [mkFrame 3 f.cls f.slot f.tag [BitVec.ofNat 8 reason.code, s.mgmt.chain.zeroExtend 8]] }
      slots := s.slots.set i ((s.slot i).credit .bounces)
      mgmt := { s.mgmt with flags := { s.mgmt.flags with
        tableFull := s.mgmt.flags.tableFull || full } } } := by
  unfold State.placeBounce
  rw [State.bounceFrame_eq]
  cases full
  · simp only [Bool.or_false]
    rfl
  · simp only [Bool.or_true]
    rfl

/-- Settles O13: in each case admission bounces with the reason named, and the bounce is placed or waits. -/
theorem admissionBounces : Obligations.AdmissionBounces := by
  intro s f i reason full staged req watching room addressed st byState foreign refuses listed
  have taken := execTakeUpFrame_request staged req watching room addressed
  obtain ⟨r, code, bounced⟩ : ∃ r : BounceReason, r.code = reason ∧ s.admission i f = .bounce r full := by
    obtain ⟨marker, state, rfl⟩ | ⟨own, state, rfl, alone⟩ | ⟨own, refusing, rfl, j, standIn, closed⟩ |
      ⟨own, refusing, rfl, rfl, j, e, standIn, accepting, found, request, limit⟩ |
      ⟨own, accepting, watched, limit⟩ := listed
    · obtain ⟨refusing, code⟩ := SlotState.refusal_code state
      exact ⟨_, code, State.admission_foreign_refused marker refusing⟩
    · obtain ⟨refusing, code⟩ := SlotState.refusal_code state
      exact ⟨_, code, (State.admission_refusing own refusing).trans (State.redirection_alone alone)⟩
    · refine ⟨.standInRefused, rfl, (State.admission_refusing own refusing).trans ?_⟩
      obtain ⟨shut, rfl⟩ | ⟨accepting, rfl, e, found, probe⟩ |
        ⟨accepting, absent, watched, noPlace, rfl⟩ := closed
      · exact State.redirection_closed standIn shut
      · rw [State.redirection_found standIn accepting found, if_pos probe]
      · rw [State.redirection_absent standIn accepting absent, if_neg (by simp [watched]),
          if_neg (by rw [State.tableHasRoom_iff]; omega), State.not_tableHasRoom]
    · refine ⟨.retryLimit, rfl, (State.admission_refusing own refusing).trans ?_⟩
      rw [State.redirection_found standIn accepting found, if_neg (by simp [request]),
        if_neg (show ¬ e.retries < Config.retryLimit from Nat.not_lt.mpr limit)]
    · have accepted := State.admission_accepting (i := i) own accepting
      obtain ⟨rfl, rfl, e, found, request, limit⟩ | ⟨rfl, rfl, absent, ceiling⟩ |
        ⟨rfl, rfl, absent, place, noRoom⟩ := limit
      · exact ⟨.retryLimit, rfl, accepted.trans (State.acceptance_limit watched found request limit)⟩
      · exact ⟨.ceiling, rfl, accepted.trans (State.acceptance_ceiling watched absent ceiling)⟩
      · exact ⟨.tableFull, rfl, accepted.trans (State.acceptance_tableFull watched absent place noRoom)⟩
  refine ⟨fun queue => taken.trans ?_, fun queue => taken.trans ?_⟩
  · rw [State.carryAdmission_waits bounced queue]
  · rw [State.carryAdmission_bounced bounced queue, State.placeBounce_eq, code]
    rfl

/-! ### A redirected request (R43) -/

/-- An entry created and its arrival credited change one slot record (R46, R43). -/
theorem State.createEntry_eq (s : State) (i : SlotIndex) (f : Frame) (redirected : Bool) :
    s.createEntry i f redirected =
      { s with table := s.table ++ [requestEntry s i f redirected] }.setSlot i
        ({ s.slot i with requestCount := (s.slot i).requestCount + 1 }.credit .arrivals) :=
  State.updSlot_updSlot { s with table := s.table ++ [requestEntry s i f redirected] } i
    (fun r => r.addEntry .request) fun r => r.credit .arrivals

/-- Settles O14: the redirect decision, and each of its outcomes carried out. -/
theorem redirectToTheStandIn : Obligations.RedirectToTheStandIn := by
  intro s f i j staged req watching room addressed own refuses standIn accepting g forwarded
  have taken := execTakeUpFrame_request staged req watching room addressed
  have decision := State.admission_refusing own refuses
  have other : j ≠ i := by
    rintro rfl
    simp [(SlotState.refuses_closed refuses).2] at accepting
  refine ⟨fun e found request retries => taken.trans ?_, fun absent unwatched => taken.trans ?_,
    fun absent watched place space => taken.trans ?_⟩
  · rw [State.redirection_found standIn accepting found, if_neg (by simp [request]),
      if_pos (show e.retries < Config.retryLimit from retries)] at decision
    unfold State.carryAdmission
    rw [decision]
    rfl
  · rw [State.redirection_absent standIn accepting absent, if_pos unwatched] at decision
    unfold State.carryAdmission
    rw [decision]
    rfl
  · rw [State.redirection_absent standIn accepting absent, if_neg (by simp [watched]),
      if_pos ⟨place, State.tableHasRoom_iff.mpr space⟩] at decision
    unfold State.carryAdmission State.forwardRewritten State.credit State.updSlot
    rw [decision]
    simp only [State.createEntry_eq, State.slot_setSlot, if_neg other]
    rfl

end Sys2Proof.Machine

namespace Sys2Proof.Machine

/-! ### CEN payloads (R176) -/

/-- A one-byte field is read back. -/
theorem fromBE_be8 {n : Nat} (h : n < 256) : fromBE (be8 n) = n := by
  simp [be8, fromBE]
  omega

theorem CenFields.length_payload (c : CenFields) : c.payload.length = 25 := by
  simp [CenFields.payload, StateCounts.bytes2, be16, be8]

/-- Each field of a CEN payload lies within its bytes (R176). -/
structure CenFields.Fits (c : CenFields) : Prop where
  vacant : c.states.vacant < 65536
  parked : c.states.parked < 65536
  probation : c.states.probation < 65536
  live : c.states.live < 65536
  suspect : c.states.suspect < 65536
  draining : c.states.draining < 65536
  fenced : c.states.fenced < 65536
  occupancy : c.occupancy < 65536
  maxAge : c.maxAge < 65536
  minLive : c.minLive < 65536
  verdicts : c.verdicts < 65536
  merged : c.merged < 256
  notWatching : c.notWatching < 256

theorem slice_be16 (n : Nat) (rest : List Byte) : slice (be16 n ++ rest) 0 2 = be16 n := rfl

theorem slice_be16_skip (n : Nat) (rest : List Byte) (k m : Nat) :
    slice (be16 n ++ rest) (k + 2) m = slice rest k m := rfl

theorem slice_be8 (n : Nat) (rest : List Byte) : slice (be8 n ++ rest) 0 1 = be8 n := rfl

theorem slice_be8_skip (n : Nat) (rest : List Byte) (k m : Nat) :
    slice (be8 n ++ rest) (k + 1) m = slice rest k m := rfl

/-- The fields of a CEN payload are read back, each at the offset at which it was written. -/
theorem parseCen_payload {c : CenFields} (h : c.Fits) : parseCen c.payload = c := by
  have seq : (c.payload.drop 24).headD 0 = c.seq := by
    simp [CenFields.payload, StateCounts.bytes2, be16, be8]
  unfold parseCen
  rw [seq]
  simp only [CenFields.payload, StateCounts.bytes2, List.append_assoc, slice_be16, slice_be16_skip,
    slice_be8, slice_be8_skip, fromBE_be16 h.vacant, fromBE_be16 h.parked, fromBE_be16 h.probation,
    fromBE_be16 h.live, fromBE_be16 h.suspect, fromBE_be16 h.draining, fromBE_be16 h.fenced,
    fromBE_be16 h.occupancy, fromBE_be16 h.maxAge, fromBE_be16 h.minLive, fromBE_be16 h.verdicts,
    fromBE_be8 h.merged, fromBE_be8 h.notWatching]

/-! ### The merge (R173) -/

theorem State.mergedFrame_merged {s : State} {f : Frame} {c : CenFields} (h : c.Fits)
    (payload : f.payload = c.payload) :
    s.mergedFrame f = Frame.withCheck { f with payload := (s.mergeCen c).payload } := by
  unfold State.mergedFrame
  rw [if_pos (payload ▸ c.length_payload), payload, parseCen_payload h]

theorem State.mergeCen_watching {s : State} (h : s.mgmt.mode = .watching) (c : CenFields) :
    s.mergeCen c = { c with
      states := c.states.add16 s.stateCounts
      occupancy := satAdd Config.max16 c.occupancy s.occupancy
      maxAge := max c.maxAge s.oldestPendingAge
      minLive := min c.minLive s.minLive
      verdicts := satAdd Config.max16 c.verdicts s.report.periodVerdicts
      merged := satAdd 255 c.merged 1 } := if_pos h

theorem State.mergeCen_elsewhere {s : State} (h : s.mgmt.mode ≠ .watching) (c : CenFields) :
    s.mergeCen c = { c with notWatching := satAdd 255 c.notWatching 1 } := if_neg h

theorem execTakeDownFrame_cen {s : State} {f : Frame} {c : CenFields}
    (staged : s.trunk.downStage = some f) (cen : f.kind = 7) (running : s.mgmt.mode ≠ .starting)
    (room : s.trunk.ascBuffer.length < 8) (payload : f.payload = c.payload) (h : c.Fits) (a b : Bool) :
    execTakeDownFrame a b s = .next (s.clearDownStage.forwardUp
      (Frame.withCheck { f with payload := (s.mergeCen c).payload })) := by
  rw [execTakeDownFrame_taken staged running room, State.classifyDown_cen cen,
    State.mergedFrame_merged h payload]

/-- Settles O16: the fields are read back, merged by the mode, and sent with a new check. -/
theorem censusFramesAreMerged : Obligations.CensusFramesAreMerged := by
  intro s f a b c staged cen running room payload bounds add watching sent
  have fits : c.Fits := by
    obtain ⟨vacant, parked, probation, live, suspect, draining, fenced, occupancy, maxAge, minLive,
      verdicts, merged, notWatching⟩ := bounds
    exact ⟨vacant, parked, probation, live, suspect, draining, fenced, occupancy, maxAge, minLive,
      verdicts, merged, notWatching⟩
  have taken := execTakeDownFrame_cen staged cen running room payload fits a b
  refine ⟨fun mode => taken.trans ?_, fun mode => taken.trans ?_⟩
  · rw [State.mergeCen_watching mode]
    rfl
  · rw [State.mergeCen_elsewhere mode]
    rfl

end Sys2Proof.Machine

namespace Sys2Proof.Machine

/-! ### Reference clock periods and ticks (R21, R23, R203) -/

/-- The claim timer has counted its timeout (R203; log entry 7). -/
theorem State.claimDue_iff {s : State} : s.claimDue = true ↔ s.mgmt.mode = .unclaimed ∧
    ∃ c, s.mgmt.claimTimer = some c ∧ c.timeout * 5000000 ≤ c.periods := by
  unfold State.claimDue
  rw [Bool.and_eq_true, decide_eq_true_iff]
  refine and_congr_right fun _ => ?_
  cases s.mgmt.claimTimer with
  | none => simp
  | some c => exact decide_eq_true_iff.trans (by simp [Config.claimUnit])

/-- The timed events of an entry, by its kind and state (R56, R57, R80, R153). -/
theorem Entry.due_iff {e : Entry} {now : Tick} : e.due now = true ↔
    (e.kind = .probe ∧ e.deadline = now) ∨
    (e.kind = .request ∧
      ((e.state = .opened ∧ e.deadline = now ∧ e.loss ≠ e.deadline) ∨
        (e.loss = now ∧ (e.state = .overdue ∨ (e.state = .opened ∧ e.loss = e.deadline))) ∨
        (e.state = .held ∧ e.twinExpiry = some now))) := by
  unfold Entry.due Entry.deadlineDue Entry.lossDue Entry.expiryDue Entry.probeDue
  cases kind : e.kind with
  | request => simp [or_assoc, and_assoc]
  | probe => simp

/-- The events of the present moment (R23, R25, R203). -/
theorem State.eventDue_iff {s : State} : s.eventDue = true ↔
    s.time.activeLength ≤ s.time.windowCounter ∨
    (s.mgmt.mode = .unclaimed ∧ ∃ c, s.mgmt.claimTimer = some c ∧ c.timeout * 5000000 ≤ c.periods) ∨
    ∃ e ∈ s.table, e.due s.time.tick = true := by
  unfold State.eventDue State.boundaryDue
  rw [Bool.or_eq_true, Bool.or_eq_true, State.claimDue_iff, List.any_eq_true, decide_eq_true_iff, or_assoc]

/-- Periods counted by the claim timer change the management unit alone. -/
theorem State.countClaim_eq (s : State) (n : Nat) :
    s.countClaim n = { s with mgmt := (s.countClaim n).mgmt } := by
  unfold State.countClaim
  split <;> rfl

theorem State.takeTick_starting {s : State} (h : s.mgmt.mode = .starting) : s.takeTick = s :=
  if_pos (.inl h)

theorem State.takeTick_waits {s : State} (h : s.eventDue = true) : s.takeTick = s :=
  if_pos (.inr h)

/-- A tick that nothing holds back (R21, R25), with the periods up to it (R203). -/
theorem State.takeTick_taken {s : State} (running : s.mgmt.mode ≠ .starting) (h : s.eventDue = false) :
    s.takeTick = { s with
      time := s.time.countTick, mgmt := (s.countClaim s.time.periodsToTick).mgmt } := by
  unfold State.takeTick
  rw [if_neg (by simp [State.mode, running, h]), State.countClaim_eq]

/-- The period that reaches the divider is the one period up to the tick (R21). -/
theorem TimeBase.periodsToTick_last {t : TimeBase} (h : t.divider ≤ t.dividerCount + 1) :
    t.periodsToTick = 1 := by
  unfold TimeBase.periodsToTick
  omega

theorem step_idle {s : State} (h : s.pending = []) : step s = .next s.refclkPeriod := by
  unfold step
  rw [h]

theorem State.refclkPeriod_starting {s : State} (h : s.mgmt.mode = .starting) : s.refclkPeriod = s :=
  if_pos h

theorem State.refclkPeriod_short {s : State} (running : s.mgmt.mode ≠ .starting)
    (short : s.time.dividerCount + 1 < s.time.divider) :
    s.refclkPeriod = if s.claimDue = true then s else s.countPeriod := by
  unfold State.refclkPeriod
  rw [if_neg (show ¬ s.mode = .starting from running), if_pos short]

theorem State.refclkPeriod_tick {s : State} (running : s.mgmt.mode ≠ .starting)
    (reached : s.time.divider ≤ s.time.dividerCount + 1) : s.refclkPeriod = s.takeTick := by
  unfold State.refclkPeriod
  rw [if_neg (show ¬ s.mode = .starting from running), if_neg (by omega)]

/-- Settles O2: a period by the divider count, and the tick by the events that are due. -/
theorem referenceClockAndTick : Obligations.ReferenceClockAndTick := by
  intro s expired further timer ticked
  have timer_eq : ∀ n, (s.countClaim n).mgmt = timer n := s.countClaim_mgmt
  have taken : s.mgmt.mode ≠ .starting → s.eventDue = false →
      s.takeTick = ticked s.time.periodsToTick := fun running free => by
    rw [State.takeTick_taken running free, timer_eq]
    rfl
  refine ⟨fun idle starting => ?_, fun idle running short => ⟨fun counting => ?_, fun due => ?_⟩,
    fun idle running reached => ⟨fun free => ?_, fun due => ?_⟩,
    fun running => ⟨fun free => congrArg _ (taken running free),
      fun due => congrArg _ (State.takeTick_waits due)⟩,
    fun starting => congrArg _ (State.takeTick_starting starting), ?_⟩
  · rw [step_idle idle, State.refclkPeriod_starting starting]
  · rw [step_idle idle, State.refclkPeriod_short running short, if_neg (State.claimDue_iff.not.mpr counting)]
    unfold State.countPeriod
    rw [State.countClaim_eq, timer_eq]
  · rw [step_idle idle, State.refclkPeriod_short running short, if_pos (State.claimDue_iff.mpr due)]
  · rw [step_idle idle, State.refclkPeriod_tick running reached, taken running free,
      TimeBase.periodsToTick_last reached]
  · rw [step_idle idle, State.refclkPeriod_tick running reached, State.takeTick_waits due]
  · simp only [State.eventDue_iff, Entry.due_iff]
    rfl

end Sys2Proof.Machine

namespace Sys2Proof.Machine

/-! ### SET_TIMING (R189, R198) -/

section Timing

variable {d1 d0 w1 w0 post quiet recov m3 m2 m1 m0 cls en claim : Byte}

/-- The parameters of SET_TIMING within their ranges (R189; log entry 17). -/
def TimingBytesInRange (d1 d0 w1 w0 recov m3 m2 cls en claim : Byte) : Prop :=
  let divider := d1.toNat * 256 + d0.toNat
  (divider = 50 ∨ divider = 500 ∨ divider = 5000) ∧ 10 ≤ w1.toNat * 256 + w0.toNat ∧ recov ≠ 0 ∧
    m3 = 0 ∧ m2 = 0 ∧ cls.toNat < 16 ∧ en.toNat < 8 ∧ claim ≠ 0

theorem byte_ne_zero_iff {b : Byte} : b ≠ 0 ↔ 1 ≤ b.toNat := by
  bv_omega

/-- The timing settings that the bytes spell are in range when the bytes are (R189). -/
theorem timingInRange_bytes : timingInRange (d1.toNat * 256 + d0.toNat) (w1.toNat * 256 + w0.toNat)
      post.toNat quiet.toNat recov.toNat claim.toNat = true ↔
    ((d1.toNat * 256 + d0.toNat = 50 ∨ d1.toNat * 256 + d0.toNat = 500 ∨
      d1.toNat * 256 + d0.toNat = 5000) ∧ 10 ≤ w1.toNat * 256 + w0.toNat ∧ recov ≠ 0 ∧ claim ≠ 0) := by
  have := w1.isLt
  have := w0.isLt
  have := post.isLt
  have := quiet.isLt
  have := recov.isLt
  have := claim.isLt
  simp only [timingInRange, dividerInRange, Bool.and_eq_true, Bool.or_eq_true, decide_eq_true_eq,
    byte_ne_zero_iff]
  omega

theorem fromBE_two (a b : Byte) : fromBE [a, b] = a.toNat * 256 + b.toNat := by
  simp [fromBE]

/-- A probe marker of four bytes fits in 16 bits when its upper half is zero (R198; log entry 17). -/
theorem fromBE_four_lt : fromBE [m3, m2, m1, m0] < 65536 ↔ m3 = 0 ∧ m2 = 0 := by
  have := m1.isLt
  have := m0.isLt
  simp only [fromBE, List.foldl_cons, List.foldl_nil]
  bv_omega

/-- A probe marker whose upper half is zero is its lower half (R198). -/
theorem ofNat_fromBE_four : BitVec.ofNat 16 (fromBE [0, 0, m1, m0]) = m1 ++ m0 := by
  have := m0.isLt
  have := m1.isLt
  apply BitVec.eq_of_toNat_eq
  rw [BitVec.toNat_append, ← Nat.shiftLeft_add_eq_or_of_lt m0.isLt, BitVec.toNat_ofNat,
    Nat.shiftLeft_eq]
  simp [fromBE]
  omega

/-- The parameters of SET_TIMING as their bytes spell them (R189, R198). -/
theorem parseTiming_bytes :
    parseTiming [d1, d0, w1, w0, post, quiet, recov, m3, m2, m1, m0, cls, en, claim] =
      (classField cls.toNat).bind fun c => (enablesField en.toNat).bind fun e =>
        if fromBE [m3, m2, m1, m0] < 65536 ∧
            timingInRange (d1.toNat * 256 + d0.toNat) (w1.toNat * 256 + w0.toNat) post.toNat
              quiet.toNat recov.toNat claim.toNat = true then
          some ⟨d1.toNat * 256 + d0.toNat, w1.toNat * 256 + w0.toNat, post.toNat, quiet.toNat,
            recov.toNat, BitVec.ofNat 16 (fromBE [m3, m2, m1, m0]), c, e, claim.toNat⟩
        else none := by
  rw [← fromBE_two, ← fromBE_two]
  rfl

theorem parseTiming_good (h : TimingBytesInRange d1 d0 w1 w0 recov m3 m2 cls en claim) :
    parseTiming [d1, d0, w1, w0, post, quiet, recov, m3, m2, m1, m0, cls, en, claim] =
      some ⟨d1.toNat * 256 + d0.toNat, w1.toNat * 256 + w0.toNat, post.toNat, quiet.toNat, recov.toNat,
        m1 ++ m0, BitVec.ofNat 4 cls.toNat, ⟨en.getLsbD 0, en.getLsbD 1, en.getLsbD 2⟩, claim.toNat⟩ := by
  obtain ⟨divider, length, recovery, high3, high2, classes, enables, timeout⟩ := h
  rw [parseTiming_bytes, classField, if_pos classes, enablesField, if_pos enables]
  simp only [Option.bind_some]
  rw [if_pos ⟨fromBE_four_lt.mpr ⟨high3, high2⟩,
    timingInRange_bytes.mpr ⟨divider, length, recovery, timeout⟩⟩, high3, high2, ofNat_fromBE_four]
  rfl

theorem parseTiming_bad (h : ¬ TimingBytesInRange d1 d0 w1 w0 recov m3 m2 cls en claim) :
    parseTiming [d1, d0, w1, w0, post, quiet, recov, m3, m2, m1, m0, cls, en, claim] = none := by
  rw [parseTiming_bytes, classField, enablesField]
  split
  · rename_i classes
    split
    · rename_i enables
      simp only [Option.bind_some]
      rw [if_neg]
      rw [fromBE_four_lt, timingInRange_bytes]
      rintro ⟨⟨high3, high2⟩, divider, length, recovery, timeout⟩
      exact h ⟨divider, length, recovery, high3, high2, classes, enables, timeout⟩
    · rfl
  · rfl

end Timing

/-- Settles O41: the bytes are read and judged, then the rule follows the mode and the divider. -/
theorem setTiming : Obligations.SetTiming := by
  intro s seq how d1 d0 w1 w0 post quiet recov m3 m2 m1 m0 cls en claim holds divider length inRange
  have plain : how = .all → (0x08 : Byte) ≠ 0x01 ∧ (0x08 : Byte) ≠ 0x1D := fun _ => by decide
  have rule : ∀ p, parseTiming [d1, d0, w1, w0, post, quiet, recov, m3, m2, m1, m0, cls, en, claim] = p →
      setTimingRule s ⟨0x08 :: [d1, d0, w1, w0, post, quiet, recov, m3, m2, m1, m0, cls, en, claim],
        seq, how⟩ = match (generalizing := false) p with
          | none => .refuse .range
          | some p => if s.mode = .watching ∧ p.divider ≠ s.time.divider then .refuse .state
            else .done (s.setTiming p) [] := fun p parsed => by
    subst parsed
    rfl
  refine ⟨fun bad => congrArg Host.Outcome.next ?_,
    fun good watching other => congrArg Host.Outcome.next ?_,
    fun good free => congrArg Host.Outcome.next ?_⟩
  · exact State.runCommand_refuse holds rfl plain rfl rfl (rule _ (parseTiming_bad bad))
  · refine State.runCommand_refuse (r := .state) holds rfl plain rfl rfl
      ((rule _ (parseTiming_good good)).trans (if_pos ⟨watching, other⟩))
  · refine State.runCommand_done holds rfl plain rfl rfl
      ((rule _ (parseTiming_good good)).trans (if_neg ?_))
    rintro ⟨watching, other⟩
    exact free.elim (fun elsewhere => elsewhere watching) other

end Sys2Proof.Machine

namespace Sys2Proof.Machine

/-! ### The deadline event (R56) -/

theorem Entry.deadlineDue_iff {e : Entry} {now : Tick} : e.deadlineDue now = true ↔
    e.kind = .request ∧ e.state = .opened ∧ e.deadline = now ∧ e.loss ≠ e.deadline := by
  simp [Entry.deadlineDue, and_assoc]

theorem execEntryDeadline_absent {s : State} {i : SlotIndex} {tag : Tag}
    (absent : s.findEntry i tag = none) : execEntryDeadline i tag s = .next s := by
  unfold execEntryDeadline
  rw [absent]

theorem execEntryDeadline_found {s : State} {e : Entry} (found : s.findEntry e.slot e.tag = some e) :
    execEntryDeadline e.slot e.tag s = .next
      (if e.deadlineDue s.time.tick = true then s.updEntry e.key fun e => { e with state := .overdue }
       else s) := by
  unfold execEntryDeadline
  rw [found]

/-! ### The loss event (R57, R58, R82) -/

theorem Entry.lossDue_iff {e : Entry} {now : Tick} : e.lossDue now = true ↔
    e.kind = .request ∧ e.loss = now ∧
      (e.state = .overdue ∨ (e.state = .opened ∧ e.loss = e.deadline)) := by
  simp [Entry.lossDue, and_assoc]

theorem execEntryLoss_absent {s : State} {i : SlotIndex} {tag : Tag}
    (absent : s.findEntry i tag = none) : execEntryLoss i tag s = .next s := by
  unfold execEntryLoss
  rw [absent]

theorem execEntryLoss_found {s : State} {e : Entry} (found : s.findEntry e.slot e.tag = some e) :
    execEntryLoss e.slot e.tag s = .next (if e.lossDue s.time.tick = true then s.loseEntry e else s) := by
  unfold execEntryLoss
  rw [found]

/-- The slot record's share of a loss (R57, R60): the credit and the lost tag. -/
def SlotRecord.countLoss (r : SlotRecord) (tag : Tag) : SlotRecord :=
  { r.credit .losts with lostTags := pushLostTag r.lostTags tag }

theorem State.loseEntry_eq (s : State) (e : Entry) : s.loseEntry e =
    ((s.setSlot e.slot ((s.slot e.slot).countLoss e.tag)).releasePartner e).removeEntry e := by
  unfold State.loseEntry State.credit
  rw [State.updSlot_updSlot]
  rfl

theorem State.releasePartner_alone {s : State} {e : Entry} (alone : e.partner = none) :
    s.releasePartner e = s := by
  unfold State.releasePartner
  rw [alone]

/-- The partner of an entry that goes: removed when HELD, else left unpaired (R82). -/
theorem State.releasePartner_found {s : State} {e p : Entry} {k : EntryKey} (partner : e.partner = some k)
    (found : s.findEntry k.slot k.tag = some p) : s.releasePartner e =
      if p.state = .held then s.removeEntry p else s.updEntry k Entry.unpair := by
  unfold State.releasePartner
  rw [partner]
  simp only [found]

/-- Settles O21: the two events by what is due, and the loss by the state of the partner. -/
theorem deadlineAndLossOfAnEntry : Obligations.DeadlineAndLossOfAnEntry := by
  refine ⟨fun s i tag absent => ⟨execEntryDeadline_absent absent, execEntryLoss_absent absent⟩,
    fun s e found spared => ?_, fun s e found => ⟨fun kind state deadline grace => ?_, fun spared => ?_⟩,
    fun s e found kind loss state => ?_⟩
  · refine (execEntryLoss_found found).trans (congrArg _ (if_neg ?_))
    rw [Entry.lossDue_iff]
    rintro ⟨kind, loss, state⟩
    obtain probe | early | held | ⟨opened, grace⟩ := spared
    · simp [probe] at kind
    · exact early loss
    · simp [held] at state
    · simp [opened, grace] at state
  · exact (execEntryDeadline_found found).trans
      (congrArg _ (if_pos (Entry.deadlineDue_iff.mpr ⟨kind, state, deadline, grace⟩)))
  · refine (execEntryDeadline_found found).trans (congrArg _ (if_neg ?_))
    rw [Entry.deadlineDue_iff]
    rintro ⟨kind, state, deadline, grace⟩
    obtain probe | other | early | noGrace := spared
    · simp [probe] at kind
    · exact other state
    · exact early deadline
    · exact grace noGrace
  · intro r tags counted
    have lost : exec (.entryLoss e.slot e.tag) s =
        .next ((counted.releasePartner e).removeEntry e) := by
      refine (execEntryLoss_found found).trans (congrArg _ ?_)
      rw [if_pos (Entry.lossDue_iff.mpr ⟨kind, loss, state⟩), State.loseEntry_eq]
      rfl
    refine ⟨fun alone => ?_, fun k p partner other => ⟨fun held => ?_, ?_⟩⟩
    · rw [lost, State.releasePartner_alone alone]
    · rw [lost, State.releasePartner_found (s := counted) partner other, if_pos held]
    · intro waits unpaired
      rw [lost, State.releasePartner_found (s := counted) partner other, if_neg waits]
      rfl

end Sys2Proof.Machine

namespace Sys2Proof.Machine

/-! ### The twin-window expiry (R80) -/

theorem Entry.expiryDue_iff {e : Entry} {now : Tick} : e.expiryDue now = true ↔
    e.kind = .request ∧ e.state = .held ∧ e.twinExpiry = some now := by
  simp [Entry.expiryDue, and_assoc]

/-- An expiry that is not due, or of an entry that is not there, does not occur (log entry 2). -/
theorem execTwinWindowExpiry_idle {s : State} {i : SlotIndex} {tag : Tag}
    (h : ∀ e, s.findEntry i tag = some e → e.expiryDue s.time.tick = false) :
    execTwinWindowExpiry i tag s = .next s := by
  unfold execTwinWindowExpiry
  split
  · rfl
  · rename_i e found
    rw [if_neg (by simp [h e found])]

theorem execTwinWindowExpiry_due {s : State} {e : Entry} (found : s.findEntry e.slot e.tag = some e)
    (due : e.expiryDue s.time.tick = true) :
    execTwinWindowExpiry e.slot e.tag s = .next (s.expireTwin e) := by
  unfold execTwinWindowExpiry
  rw [found]
  exact congrArg _ (if_pos due)

/-- The expiry of an entry that has a partner (R80). -/
theorem State.expireTwin_paired {s : State} {e : Entry} {k : EntryKey} (partner : e.partner = some k) :
    s.expireTwin e =
      ((((s.removeEntry e).updEntry k fun p => { p.unpair with straggled := true }).credit k.slot
        .straggles).raiseVerdict k.slot .straggle 0 (some (s.slotAddr e.slot)) (some e.tag)) := by
  unfold State.expireTwin
  rw [partner]

/-- Settles O22: the expiry that is due, carried out, and the ones that are not. -/
theorem twinWindowExpiryRaisesStraggle : Obligations.TwinWindowExpiryRaisesStraggle := by
  refine ⟨fun s i tag spared => execTwinWindowExpiry_idle fun e found => ?_,
    fun s e j found kind held expiry partner => ?_⟩
  · rw [← Bool.not_eq_true, Entry.expiryDue_iff]
    rintro ⟨kind, held, expiry⟩
    obtain probe | other | early := spared e found
    · simp [probe] at kind
    · exact other held
    · exact early expiry
  · intro gone marked
    refine (execTwinWindowExpiry_due found (Entry.expiryDue_iff.mpr ⟨kind, held, expiry⟩)).trans ?_
    rw [State.expireTwin_paired partner]
    rfl

end Sys2Proof.Machine

namespace Sys2Proof.Machine

/-! ### The end of a probe (R154) -/

/-- The state in which the entry of a probe that ends is removed (R154). -/
def State.closing (s : State) (p : InFlight) (o : ProbeOutcome) (x : Option ProbeAnswer) : State :=
  { s with engine := { s.engine with
      pendingFrame := none, last := ⟨some ⟨p.addr, p.tag, p.origin⟩, o, x, true⟩ } }.updSlot
    p.slot fun r => { r with lastProbe := o }

/-- The engine made IDLE (R154). -/
def State.goIdle (s : State) : State := { s with engine := { s.engine with inFlight := none } }

/-- The end of a probe whose entry stands in the table, up to the action of its outcome (R154). -/
theorem State.closeProbe_found {s : State} {p : InFlight} {e : Entry}
    (found : s.findEntry p.slot p.tag = some e) (o : ProbeOutcome) (x : Option ProbeAnswer) :
    s.closeProbe p o x = ((s.closing p o x).removeEntry e).goIdle := by
  show State.goIdle (match (s.closing p o x).findEntry p.slot p.tag with
    | none => s.closing p o x
    | some e => (s.closing p o x).removeEntry e) = _
  rw [show (s.closing p o x).findEntry p.slot p.tag = some e from found]

/-- A removal leaves the engine as it was, so its IDLE engine is known before the removal. -/
theorem State.goIdle_removeEntry (s : State) (e : Entry) :
    (s.removeEntry e).goIdle =
      { s.removeEntry e with engine := { s.engine with inFlight := none } } := by
  unfold State.goIdle
  rw [State.removeEntry_engine]

/-- A failed probe hands PROBE_FAIL to the verdict unit (R154). -/
theorem State.endProbe_failed {o : ProbeOutcome} (failed : o = .answeredWrong ∨ o = .noAnswer)
    (s : State) (p : InFlight) (x : Option ProbeAnswer) :
    s.endProbe p o x = (s.closeProbe p o x).raiseVerdict p.slot .probeFail 0 none (some p.tag) := by
  obtain rfl | rfl := failed <;> rfl

/-- A probe answered well clears the VERDICT source of a FENCED slot (R154). -/
theorem State.endProbe_ok (s : State) (p : InFlight) (x : Option ProbeAnswer) :
    s.endProbe p .answeredOk x =
      let u := s.closeProbe p .answeredOk x
      if (u.slot p.slot).state = .fenced then
        u.setSlot p.slot { u.slot p.slot with verdict := false }
      else u := rfl

/-! ### The deadline of a probe (R153) -/

theorem Entry.probeDue_iff {e : Entry} {now : Tick} : e.probeDue now = true ↔
    e.kind = .probe ∧ e.deadline = now := by
  simp [Entry.probeDue]

theorem execProbeDeadline_due {s : State} {p : InFlight} {e : Entry} (flies : s.engine.inFlight = some p)
    (found : s.findEntry p.slot p.tag = some e) (due : e.probeDue s.time.tick = true) :
    execProbeDeadline s = .next (s.endProbe p .noAnswer none) := by
  unfold execProbeDeadline
  rw [flies]
  dsimp only
  rw [found]
  exact congrArg _ (if_pos due)

/-- Without a probe in flight whose entry is due the deadline does not occur (R153, log entry 2). -/
theorem execProbeDeadline_idle {s : State} (h : ∀ p e, s.engine.inFlight = some p →
    s.findEntry p.slot p.tag = some e → e.probeDue s.time.tick = false) :
    execProbeDeadline s = .next s := by
  unfold execProbeDeadline
  split
  · rfl
  · rename_i p flies
    split
    · rfl
    · rename_i e found
      rw [if_neg (by simp [h p e flies found])]

/-! ### The answer of a probe (R152, R157) -/

/-- The answer of the probe in flight ends it (R152). -/
theorem State.probeAnswer_own {s : State} {p : InFlight} (flies : s.engine.inFlight = some p)
    (d : Digest) : s.probeAnswer p.slot p.tag d =
      s.endProbe p (answerOutcome (s.slot p.slot).config.probeDigest d)
        (some ⟨tickAge16 s.time.tick p.launch, d⟩) := by
  unfold State.probeAnswer
  rw [flies]
  exact if_pos ⟨rfl, rfl⟩

/-- Any other answer of probe traffic is stale (R157). -/
theorem State.probeAnswer_stale {s : State} {i : SlotIndex} {tag : Tag}
    (other : ∀ p, s.engine.inFlight = some p → ¬ (p.slot = i ∧ p.tag = tag)) (d : Digest) :
    s.probeAnswer i tag d =
      { s with engine := { s.engine with stale := satAdd Config.max16 s.engine.stale 1 } } := by
  unfold State.probeAnswer
  cases flies : s.engine.inFlight with
  | none => rfl
  | some p => exact if_neg (other p flies)

theorem answerOutcome_ok {expected : Option Digest} {d : Digest}
    (h : expected = none ∨ expected = some d) : answerOutcome expected d = .answeredOk := by
  obtain rfl | rfl := h
  · rfl
  · exact if_pos rfl

theorem answerOutcome_wrong {x d : Digest} (h : x ≠ d) : answerOutcome (some x) d = .answeredWrong :=
  if_neg h

/-- This monitor's probe traffic goes to the probe engine (R49). -/
theorem State.matching_probe {s : State} {i : SlotIndex} {f : Frame}
    (traffic : (tagMarker f.tag = s.engine.marker ∧ tagChain f.tag = s.mgmt.chain) ∨
      ∃ e, s.findEntry i f.tag = some e ∧ e.kind = .probe) : s.matching i f = .probe := by
  unfold State.matching
  refine if_pos (traffic.imp_right ?_)
  rintro ⟨e, found, probe⟩
  unfold State.probeEntryHas
  rw [found]
  exact decide_eq_true probe

/-- An RSP of probe traffic, taken in WATCHING from a slot of the watch range, is absorbed (R49). -/
theorem execTakeDownFrame_probe {s : State} {f : Frame} {i : SlotIndex}
    (staged : s.trunk.downStage = some f) (rsp : f.kind = 2) (watching : s.mgmt.mode = .watching)
    (room : s.trunk.ascBuffer.length < 8) (addressed : s.Addresses f.slot i)
    (probe : s.matching i f = .probe) (a b : Bool) :
    execTakeDownFrame a b s = .next (s.clearDownStage.probeAnswer i f.tag (crc f.payload)) := by
  rw [execTakeDownFrame_taken staged (by simp [watching]) room, State.classifyDown_rsp rsp,
    State.takeResponse_matched watching addressed]
  unfold State.carryMatching
  rw [probe]

/-- Settles O20: the answer or the deadline ends the probe, and any other answer is stale. -/
theorem probesEnd : Obligations.ProbesEnd := by
  intro s f i a b stage last closed traffic
  refine ⟨fun staged rsp watching room addressed own => ?_, fun p e flies found kind deadline => ?_,
    fun idle => execProbeDeadline_idle fun p e flies found => ?_⟩
  · have taken := execTakeDownFrame_probe staged rsp watching room addressed (State.matching_probe own) a b
    refine ⟨fun p e flies slot tag found => ?_, fun other => taken.trans ?_⟩
    · intro x
      subst slot
      rw [← tag] at taken found ⊢
      have answered : exec (.takeDownFrame a b) s = .next (s.clearDownStage.endProbe p
          (answerOutcome (s.slot p.slot).config.probeDigest (crc f.payload)) (some x)) :=
        taken.trans (congrArg _ (State.probeAnswer_own (s := s.clearDownStage) flies _))
      have ended : ∀ o, s.clearDownStage.closeProbe p o (some x) = closed stage p e o (some x) :=
        fun o => by
          rw [State.closeProbe_found (s := s.clearDownStage) found, State.goIdle_removeEntry]
          rfl
      refine ⟨fun good => answered.trans ?_, fun d expected differs => answered.trans ?_⟩
      · rw [answerOutcome_ok good, State.endProbe_ok, ended]
      · rw [expected, answerOutcome_wrong differs, State.endProbe_failed (.inl rfl), ended]
    · rw [State.probeAnswer_stale (s := s.clearDownStage) other]
      rfl
  · refine (execProbeDeadline_due flies found (Entry.probeDue_iff.mpr ⟨kind, deadline⟩)).trans ?_
    rw [State.endProbe_failed (.inr rfl), State.closeProbe_found found, State.goIdle_removeEntry]
    rfl
  · rw [← Bool.not_eq_true, Entry.probeDue_iff]
    rintro ⟨kind, deadline⟩
    obtain landed | ⟨q, flies', spared⟩ := idle
    · simp [landed] at flies
    · obtain rfl := Option.some.inj (flies.symm.trans flies')
      obtain request | early := spared e found
      · simp [request] at kind
      · exact early deadline

end Sys2Proof.Machine

namespace Sys2Proof.Machine

/-! ### When an image is good (R202) -/

theorem ClassProfile.inRange_iff {p : ClassProfile} : p.inRange = true ↔
    (1 ≤ p.deadline ∧ p.deadline ≤ 65535) ∧ p.grace ≤ 65535 ∧
      (1 ≤ p.twinWindow ∧ p.twinWindow ≤ 65535) := by
  simp only [ClassProfile.inRange, Bool.and_eq_true, decide_eq_true_eq, and_assoc]

theorem PolicySet.inRange_iff {p : PolicySet} : p.inRange = true ↔
    (1 ≤ p.missThreshold ∧ p.missThreshold ≤ 255) ∧ (1 ≤ p.lateThreshold ∧ p.lateThreshold ≤ 255) ∧
      (1 ≤ p.strayThreshold ∧ p.strayThreshold ≤ 255) ∧
      (1 ≤ p.confirmWindows ∧ p.confirmWindows ≤ 15) ∧
      (1 ≤ p.probationWindows ∧ p.probationWindows ≤ 15) ∧ p.quietGap ≤ 15 := by
  simp only [PolicySet.inRange, Bool.and_eq_true, decide_eq_true_eq, and_assoc]

theorem SlotConfig.inRange_iff {i : SlotIndex} {c : SlotConfig} : c.inRange i = true ↔
    (1 ≤ c.ceiling ∧ c.ceiling ≤ 255) ∧ (1 ≤ c.rampStart ∧ c.rampStart ≤ c.ceiling) ∧
      (1 ≤ c.rampStep ∧ c.rampStep ≤ 255) ∧ c.divisor ∈ [1, 4, 16, 64] ∧
      c.standIn ≠ some i ∧ c.twin ≠ some i := by
  simp [SlotConfig.inRange, and_assoc, or_assoc]

theorem timingInRange_iff {divider windowLength postscale quiet recovery claim : Nat} :
    timingInRange divider windowLength postscale quiet recovery claim = true ↔
      divider ∈ [50, 500, 5000] ∧ (10 ≤ windowLength ∧ windowLength ≤ 65535) ∧ postscale ≤ 255 ∧
        quiet ≤ 255 ∧ (1 ≤ recovery ∧ recovery ≤ 255) ∧ (1 ≤ claim ∧ claim ≤ 255) := by
  simp [timingInRange, dividerInRange, and_assoc, or_assoc]

theorem all_toList_iff {α : Type} {n : Nat} (v : Vector α n) (p : α → Bool) :
    v.toList.all p = true ↔ ∀ k : Fin n, p v[k] = true := by
  simp [Fin.forall_iff]

theorem allSlots_all_iff {p : SlotIndex → Bool} : allSlots.all p = true ↔ ∀ i, p i = true := by
  simp [List.all_eq_true, mem_allSlots]

theorem StoredItems.inRange_iff {x : StoredItems} : x.inRange = true ↔
    (∀ k : Fin 16, (x.profiles[k]).inRange = true) ∧ (∀ k : Fin 4, (x.policies[k]).inRange = true) ∧
      (∀ i : SlotIndex, (x.slots[i]).inRange i = true) ∧
      timingInRange x.divider x.windowLength x.postscale x.quietPeriod x.recoveryPeriod
        x.claimTimeout = true ∧ x.watchBase ≤ 224 := by
  simp only [StoredItems.inRange, Bool.and_eq_true, all_toList_iff, allSlots_all_iff, decide_eq_true_eq,
    and_assoc]

/-! ### The end of STARTING (R201) -/

/-- The sticky flags after an alert: OUTBOX_LOST is set where the outbox was full (R163). -/
theorem State.queueAlert_flags (s : State) (r : AlertRecord) : (s.queueAlert r).mgmt.flags =
    { s.mgmt.flags with
      outboxLost := s.mgmt.flags.outboxLost || decide (32 ≤ s.report.outbox.length) } := by
  by_cases room : s.report.outbox.length < Config.outboxCapacity
  · have : ¬ 32 ≤ s.report.outbox.length := Nat.not_le.mpr room
    rw [State.queueAlert_room s r room]
    simp [this]
  · have : 32 ≤ s.report.outbox.length := Nat.not_lt.mp room
    rw [State.queueAlert_full s r room]
    simp [this]

theorem execStoreLoadComplete_idle {s : State} (h : s.mgmt.mode ≠ .starting ∨ s.mgmt.resetHeld = true)
    (inputs : LoadInputs) : execStoreLoadComplete inputs s = .next s := by
  refine congrArg _ (if_neg ?_)
  rintro ⟨starting, released⟩
  obtain ended | held := h
  · exact ended starting
  · simp [held] at released

theorem execStoreLoadComplete_loads {s : State} (starting : s.mgmt.mode = .starting)
    (released : s.mgmt.resetHeld = false) (inputs : LoadInputs) :
    execStoreLoadComplete inputs s = .next (s.finishLoad inputs) :=
  congrArg _ (if_pos ⟨starting, released⟩)

theorem State.slot_finishLoad (s : State) (inputs : LoadInputs) (i : SlotIndex) :
    (s.finishLoad inputs).slot i = SlotRecord.loaded s.store.image.loadItems.slots[i] := by
  unfold State.finishLoad
  simp [State.slot, State.setItems]

theorem State.finishLoad_mgmt (s : State) (inputs : LoadInputs) :
    (s.finishLoad inputs).mgmt = { s.mgmt with
      mode := .unclaimed
      claimTimeout := s.store.image.loadItems.claimTimeout
      claimTimer := some ⟨s.store.image.loadItems.claimTimeout, 0⟩
      groups := s.store.image.loadItems.groups
      watchBase := s.store.image.loadItems.watchBase
      activeProfiles := s.store.image.loadItems.profiles
      stagedProfiles := s.store.image.loadItems.profiles
      flags := { s.mgmt.flags with
        storeBad := !s.store.image.good
        outboxLost := s.mgmt.flags.outboxLost || decide (32 ≤ s.report.outbox.length) } } := by
  unfold State.finishLoad
  rw [State.queueAlert_mgmt, State.queueAlert_flags]
  rfl

/-- The ARRIVAL alert of a start, in an outbox with room (R201). -/
theorem State.finishLoad_report {s : State} (room : s.report.outbox.length < 32) (inputs : LoadInputs) :
    (s.finishLoad inputs).report = { s.report with outbox := s.report.outbox ++
      [⟨.arrival s.mgmt.startCause.arrival .unclaimed s.mgmt.chain
        (loadOutcomeOf s.store.image.good) 1, s.mgmt.chain⟩] } := by
  unfold State.finishLoad
  rw [State.queueAlert_room _ _ (by exact room)]
  rfl

/-- Settles O5: the ranges field by field, and the load block by block. -/
theorem storeLoadEndsStarting : Obligations.StoreLoadEndsStarting := by
  refine ⟨fun image => ?_, fun x => ?_, fun s m up down => ?_⟩
  · simp only [StoreImage.good, Bool.and_eq_true, and_assoc]
  · simp only [StoredItems.inRange_iff, ClassProfile.inRange_iff, PolicySet.inRange_iff,
      SlotConfig.inRange_iff, timingInRange_iff, and_assoc]
  · intro c load
    refine ⟨fun idle => execStoreLoadComplete_idle idle _, fun starting released =>
      ⟨_, execStoreLoadComplete_loads starting released _, ?_⟩⟩
    exact ⟨State.queueAlert_trunk _ _, State.queueAlert_table _ _, State.queueAlert_pending _ _,
      State.queueAlert_time _ _, s.slot_finishLoad _, State.queueAlert_policy _ _,
      State.queueAlert_engine _ _, s.finishLoad_mgmt _, State.queueAlert_store _ _,
      fun room => State.finishLoad_report room _⟩

end Sys2Proof.Machine

namespace Sys2Proof.Machine

/-! ### A snapshot event (R194) -/

/-- A snapshot event changes the snapshot table alone. -/
theorem State.takeSnapshot_eq {s : State} {number : BitVec 32} {now : Tick}
    (window : s.time.windowNumber = number) (tick : s.time.tick = now) (cause : SnapshotCause) :
    s.takeSnapshot cause = { s with mgmt := { s.mgmt with snapshot :=
      ⟨cause, number, now, Vector.ofFn fun i =>
        ⟨(s.slot i).state, (s.slot i).requestCount, s.oldestAge i, (s.slot i).lastWindow,
          (s.slot i).totals⟩⟩ } } := by
  subst window tick
  rfl

/-- The snapshot of a boundary's census instant is taken in WATCHING alone (R171). -/
theorem State.boundarySnapshot_eq (due : Bool) (s : State) : s.boundarySnapshot due =
    if due = true ∧ s.mode = .watching then s.takeSnapshot .census else s := by
  unfold State.boundarySnapshot State.censusSnapshot
  cases due <;> simp

theorem State.boundaryCensus_eq (due : Bool) (s : State) :
    s.boundaryCensus due = if due = true then s.censusInstant else s := rfl

/-! ### The turns of slots that are not watched (R103, R109, R167) -/

/-- The turn of a VACANT or PARKED slot, by its record and the active policy sets. -/
def SlotRecord.quietTurn (sets : Vector PolicySet 4) (r : SlotRecord) : SlotRecord :=
  if r.state = .parked then (r.paceDown (sets[r.config.policySet]).quietGap).rollover else r

theorem SlotRecord.quietTurn_state (sets : Vector PolicySet 4) (r : SlotRecord) :
    (r.quietTurn sets).state = r.state := by
  unfold SlotRecord.quietTurn
  split <;> rfl

theorem SlotRecord.quietTurn_vacant {sets : Vector PolicySet 4} {r : SlotRecord} (h : r.state = .vacant) :
    r.quietTurn sets = r :=
  if_neg (by simp [h])

theorem SlotRecord.quietTurn_parked {sets : Vector PolicySet 4} {r : SlotRecord} (h : r.state = .parked) :
    r.quietTurn sets = { r with
      lastWindow := r.window
      window := .zero
      pacing := r.pacing.map fun hold => min (sets[r.config.policySet]).quietGap (hold - 1) } :=
  if_pos h

/-- The turn of a slot that is not watched changes its record alone. -/
theorem State.slotTurn_quiet {s : State} {i : SlotIndex}
    (h : (s.slot i).state = .vacant ∨ (s.slot i).state = .parked) (start : Tick) :
    s.slotTurn start i = s.updSlot i (SlotRecord.quietTurn s.policy.active) := by
  unfold State.slotTurn State.updSlot
  obtain vacant | parked := h
  · rw [SlotRecord.quietTurn_vacant vacant, State.setSlot_slot_self]
    simp [vacant, SlotState.watched]
  · rw [SlotRecord.quietTurn_parked parked, if_neg (by simp [parked, SlotState.watched]), if_pos parked]
    rfl

/-- The turns of slots none of which is watched change their records alone. -/
theorem foldl_slotTurn_quiet (start : Tick) (l : List SlotIndex) (s : State)
    (h : ∀ i, (s.slot i).state = .vacant ∨ (s.slot i).state = .parked) :
    l.foldl (State.slotTurn start) s =
      l.foldl (fun t i => t.updSlot i (SlotRecord.quietTurn s.policy.active)) s := by
  induction l generalizing s with
  | nil => rfl
  | cons i l ih =>
    rw [List.foldl_cons, List.foldl_cons, State.slotTurn_quiet (h i)]
    refine ih _ fun j => ?_
    have same : ((s.updSlot i (SlotRecord.quietTurn s.policy.active)).slot j).state =
        (s.slot j).state := by
      rw [State.slot_updSlot]
      split
      · rename_i mine
        rw [SlotRecord.quietTurn_state, mine]
      · rfl
    rw [same]
    exact h j

/-- Changes of slot records leave table, engine and report unit. -/
theorem foldl_updSlot_frame (f : SlotRecord → SlotRecord) (l : List SlotIndex) (s : State) :
    let t := l.foldl (fun t i => t.updSlot i f) s
    t.table = s.table ∧ t.engine = s.engine ∧ t.report = s.report := by
  induction l generalizing s with
  | nil => exact ⟨rfl, rfl, rfl⟩
  | cons i l ih => exact ih (s.updSlot i f)

/-- Every slot's turn, with no watched slot: the other blocks stand, each record takes its turn. -/
theorem foldl_slotTurn_unwatched (start : Tick) (turns : List SlotIndex) (s : State)
    (h : ∀ i, (s.slot i).state = .vacant ∨ (s.slot i).state = .parked) :
    let t := (turnSequence turns).foldl (State.slotTurn start) s
    t.table = s.table ∧ t.engine = s.engine ∧ t.report = s.report ∧
      ∀ i, t.slot i = (s.slot i).quietTurn s.policy.active := by
  dsimp only
  rw [foldl_slotTurn_quiet start _ s h]
  obtain ⟨table, engine, report⟩ :=
    foldl_updSlot_frame (SlotRecord.quietTurn s.policy.active) (turnSequence turns) s
  refine ⟨table, engine, report, fun i => ?_⟩
  rw [foldl_slot (fun _ => SlotRecord.quietTurn s.policy.active) (fun t j => t.slot_updSlot_self j _)
    (fun t j k other => by rw [State.slot_updSlot, if_neg other]) _ (turnSequence_nodup turns),
    if_pos (mem_turnSequence turns i)]

/-! ### The natural boundary (R25, R26) -/

theorem execNaturalBoundary_idle {s : State}
    (h : s.mgmt.mode = .starting ∨ s.time.windowCounter < s.time.activeLength) (turns : List SlotIndex) :
    execNaturalBoundary turns s = .next s := by
  refine congrArg _ (if_neg ?_)
  rintro ⟨running, due⟩
  obtain starting | early := h
  · exact running starting
  · exact absurd (of_decide_eq_true due) (Nat.not_le.mpr early)

theorem execNaturalBoundary_due {s : State} (running : s.mgmt.mode ≠ .starting)
    (due : s.time.activeLength ≤ s.time.windowCounter) (turns : List SlotIndex) :
    execNaturalBoundary turns s = .next (s.boundary turns) :=
  congrArg _ (if_pos ⟨running, decide_eq_true due⟩)

/-- A boundary up to its census alert (R26). -/
def State.boundaryCounted (s : State) (turns : List SlotIndex) : State :=
  (s.boundaryCloses turns).boundaryCensus s.time.censusDue

theorem State.boundary_eq (s : State) (turns : List SlotIndex) :
    s.boundary turns = (s.boundaryCounted turns).boundarySnapshot s.time.censusDue := rfl

section Counted

variable {s opened : State} (moved : { s with time := s.time.openWindow.advancePostscale } = opened)
  (turns : List SlotIndex)

include moved

theorem State.boundaryCloses_opened : s.boundaryCloses turns =
    (turnSequence turns).foldl (State.slotTurn s.time.windowStart) opened := by
  subst moved
  rfl

/-- The closes on the moved time base, then, where one is due, the census alert. -/
theorem State.boundaryCounted_opened : s.boundaryCounted turns =
    let closed := (turnSequence turns).foldl (State.slotTurn s.time.windowStart) opened
    if s.time.postscale ≠ 0 ∧ s.time.postscale ≤ s.time.postscaleCount + 1 then closed.censusInstant
    else closed := by
  unfold State.boundaryCounted
  rw [State.boundaryCloses_opened moved, State.boundaryCensus_eq]
  simp only [TimeBase.censusDue_iff]

theorem State.boundaryCounted_work : CloseWork opened (s.boundaryCounted turns) := by
  subst moved
  exact (s.boundaryCloses_work turns).trans (State.boundaryCensus_work _ _).1.toClose

end Counted

/-- Settles O23: the closes and the census alert are close work on the moved time base, and the snapshot
changes the snapshot table alone. -/
theorem naturalBoundary : Obligations.NaturalBoundary := by
  refine ⟨fun s turns idle => execNaturalBoundary_idle idle turns, fun s turns running due => ?_⟩
  intro census opened closed counted frozen
  have moved : { s with time := s.time.openWindow.advancePostscale } = opened := by
    rw [TimeBase.openWindow_advancePostscale]
  have counted_eq : s.boundaryCounted turns = counted := State.boundaryCounted_opened moved turns
  have work : CloseWork opened counted := counted_eq ▸ State.boundaryCounted_work moved turns
  obtain ⟨census_work, census_table, census_slots, cleared⟩ :=
    State.boundaryCensus_work s.time.censusDue closed
  rw [show closed.boundaryCensus s.time.censusDue = counted by
    rw [← counted_eq, State.boundaryCounted, State.boundaryCloses_opened moved]]
    at census_work census_table census_slots cleared
  have uncounted : ¬ census → counted = closed := fun none => if_neg none
  clear_value counted
  have taken : s.boundary turns =
      if census ∧ s.mgmt.mode = .watching then frozen counted else counted := by
    rw [State.boundary_eq, counted_eq, State.boundarySnapshot_eq, work.mode,
      State.takeSnapshot_eq (number := s.time.windowNumber + 1) (now := s.time.tick)
        (by rw [work.time]) (by rw [work.time])]
    simp only [TimeBase.censusDue_iff]
    rfl
  obtain ⟨snapshot, boundary_eq, frozen_eq, kept⟩ : ∃ x,
      s.boundary turns = { counted with mgmt := { counted.mgmt with snapshot := x } } ∧
      (census ∧ s.mgmt.mode = .watching → x = (frozen counted).mgmt.snapshot) ∧
      (¬ (census ∧ s.mgmt.mode = .watching) → x = s.mgmt.snapshot) := by
    by_cases snaps : census ∧ s.mgmt.mode = .watching
    · exact ⟨_, taken.trans (if_pos snaps), fun _ => rfl, fun none => absurd snaps none⟩
    · exact ⟨counted.mgmt.snapshot, taken.trans (if_neg snaps), fun some => absurd some snaps,
        fun _ => by rw [work.mgmt]⟩
  refine ⟨turnSequence_perm turns, turnSequence_prefix turns, s.boundary turns,
    execNaturalBoundary_due running due turns, taken, ?_⟩
  rw [boundary_eq]
  refine ⟨work.time, work.trunk, work.policy, work.store, work.pending, ?_, work.bounce, work.engine,
    work.config, fun instant => cleared (TimeBase.censusDue_iff _ |>.mpr instant), fun instant watching => ?_,
    fun spared => ?_, fun unwatched => ?_⟩
  · show { counted.mgmt with snapshot := snapshot } = _
    rw [work.mgmt]
  · rw [frozen_eq ⟨instant, watching⟩]
    exact ⟨rfl, rfl, rfl, fun i => congrArg SnapshotRecord.lastWindow (Vector.getElem_ofFn i.isLt)⟩
  · exact kept fun ⟨instant, watching⟩ =>
      spared.elim (fun none => none instant) fun other => other watching
  · obtain ⟨table, engine, report, records⟩ :=
      foldl_slotTurn_unwatched s.time.windowStart turns opened unwatched
    have slot_eq : ∀ i, counted.slot i = (s.slot i).quietTurn s.policy.active := fun i => by
      refine Eq.trans ?_ (records i)
      rw [State.slot, census_slots]
      rfl
    exact ⟨census_table.trans table, census_work.engine.trans engine,
      fun none => (congrArg State.report (uncounted none)).trans report,
      fun i vacant => (slot_eq i).trans (SlotRecord.quietTurn_vacant vacant),
      fun i parked => (slot_eq i).trans (SlotRecord.quietTurn_parked parked)⟩

end Sys2Proof.Machine

namespace Sys2Proof.Machine

/-! ### MARK (R29 to R31) -/

theorem execMarkEdge_starting {s : State} (starting : s.mgmt.mode = .starting) (level : Bool)
    (orders : EdgeOrders) : execMarkEdge level orders s = .next s :=
  congrArg _ (if_pos starting)

theorem execMarkEdge_sampled {s : State} (running : s.mgmt.mode ≠ .starting) (level : Bool)
    (orders : EdgeOrders) : execMarkEdge level orders s = .next (s.takeMark level orders) :=
  congrArg _ (if_neg running)

/-- A sample that is no rising edge is only recorded (R29). -/
theorem State.takeMark_level {s : State} {level : Bool} (h : level = false ∨ s.time.markSample = true)
    (orders : EdgeOrders) : s.takeMark level orders = s.sampleMark level :=
  if_neg fun ⟨high, before⟩ => by
    obtain low | held := h
    · simp [low] at high
    · simp [held] at before

/-- High after low is the edge (R29). -/
theorem State.takeMark_edge {s : State} (low : s.time.markSample = false) (orders : EdgeOrders) :
    s.takeMark true orders = (s.sampleMark true).markEvent orders :=
  if_pos ⟨rfl, low⟩

/-- An edge that makes no boundary (R30, R31). -/
theorem State.markEvent_plain {s : State} (h : s.time.markEnables.align = false ∨ s.time.windowCounter = 0)
    (orders : EdgeOrders) : s.markEvent orders = s.markCommit.markSnapshot :=
  if_neg fun ⟨align, inside⟩ => by
    obtain h | h := h
    · simp [h] at align
    · omega

/-- An edge that makes a boundary (R31). -/
theorem State.markEvent_align {s : State} (align : s.time.markEnables.align = true)
    (inside : 1 ≤ s.time.windowCounter) (turns : List SlotIndex) (last : Bool) :
    s.markEvent ⟨turns, last⟩ =
      let u := (s.boundaryCounted turns).markCommit
      if last = true then u.markSnapshot.boundarySnapshot s.time.censusDue
      else (u.boundarySnapshot s.time.censusDue).markSnapshot :=
  if_pos ⟨align, inside⟩

/-- The commit of an edge: the staged tables become active where COMMIT is enabled (R30). -/
theorem State.markCommit_eq {s : State} {m : MarkEnables} (h : s.time.markEnables = m) :
    s.markCommit = { s with
      policy := ⟨if m.commit = true then s.policy.staged else s.policy.active, s.policy.staged⟩
      mgmt := { s.mgmt with activeProfiles :=
        if m.commit = true then s.mgmt.stagedProfiles else s.mgmt.activeProfiles } } := by
  subst h
  unfold State.markCommit
  by_cases enabled : s.time.markEnables.commit = true
  · simp only [enabled, if_true]
    rfl
  · simp only [enabled]
    rfl

/-- The snapshot of an edge, where SNAPSHOT is enabled (R31). -/
theorem State.markSnapshot_eq {s : State} {m : MarkEnables} (h : s.time.markEnables = m) :
    s.markSnapshot = if m.snapshot = true then s.takeSnapshot .mark else s := by
  subst h
  rfl

@[simp] theorem State.markSnapshot_time (s : State) : s.markSnapshot.time = s.time := by
  unfold State.markSnapshot
  split <;> rfl

@[simp] theorem State.markSnapshot_mode (s : State) : s.markSnapshot.mode = s.mode := by
  unfold State.markSnapshot
  split <;> rfl

@[simp] theorem State.boundarySnapshot_time (due : Bool) (s : State) :
    (s.boundarySnapshot due).time = s.time := by
  rw [State.boundarySnapshot_eq]
  split <;> rfl

/-- Settles O25: the edge is told from the other samples, and its boundary is close work on the moved
time base. -/
theorem markEdge : Obligations.MarkEdge := by
  intro s level turns last m sampled committed frozen byMark
  refine ⟨fun starting => execMarkEdge_starting starting level _, fun running still =>
    (execMarkEdge_sampled running level _).trans (congrArg _ (State.takeMark_level still _)),
    fun running high low => ?_⟩
  subst high
  have edge : exec (.markEdge true ⟨turns, last⟩) s = .next (sampled.markEvent ⟨turns, last⟩) :=
    (execMarkEdge_sampled running true _).trans (congrArg _ (State.takeMark_edge low _))
  have committed_eq : ∀ t : State, t.time.markEnables = m → t.markCommit = committed t := fun t h => by
    rw [State.markCommit, h]
    rfl
  have byMark_eq : ∀ t : State, t.time.markEnables = m → t.time.tick = s.time.tick →
      t.markSnapshot = byMark t := fun t enables tick => by
    rw [State.markSnapshot_eq enables, State.takeSnapshot_eq rfl tick]
  refine ⟨fun alone => edge.trans ?_, fun align inside => ?_⟩
  · rw [State.markEvent_plain (s := sampled) alone, byMark_eq, committed_eq sampled rfl]
    all_goals rw [State.markCommit_eq rfl]
  · intro census opened closed u byCensus
    have moved : { sampled with time := sampled.time.openWindow.advancePostscale } = opened := by
      rw [TimeBase.openWindow_advancePostscale]
    have work := State.boundaryCounted_work moved turns
    have u_eq : (sampled.boundaryCounted turns).markCommit = u := by
      rw [committed_eq _ (by rw [work.time]), State.boundaryCounted_opened moved]
    have blocks := State.markCommit_eq (s := sampled.boundaryCounted turns) (m := m) (by rw [work.time])
    rw [u_eq] at blocks
    have time : u.time = opened.time := (congrArg State.time blocks).trans work.time
    have mode : u.mode = s.mgmt.mode := (congrArg State.mode blocks).trans work.mode
    have byCensus_eq : ∀ t : State, t.time.tick = s.time.tick → t.mode = s.mgmt.mode →
        t.boundarySnapshot sampled.time.censusDue = byCensus t := fun t tick mode => by
      rw [State.boundarySnapshot_eq, mode, State.takeSnapshot_eq rfl tick]
      simp only [TimeBase.censusDue_iff]
      rfl
    refine ⟨edge.trans ?_, turnSequence_perm turns, time, ?_⟩
    · rw [State.markEvent_align (s := sampled) align inside, u_eq]
      dsimp only
      split
      · rw [byCensus_eq _ (by rw [State.markSnapshot_time, time]) (by rw [State.markSnapshot_mode, mode]),
          byMark_eq u (by rw [time]) (by rw [time])]
      · rw [byMark_eq _ (by rw [State.boundarySnapshot_time, time])
          (by rw [State.boundarySnapshot_time, time]), byCensus_eq u (by rw [time]) mode]
    · rw [blocks]
      refine ⟨work.trunk, work.store, work.pending, work.engine, work.bounce, work.config, ?_, ?_⟩
      · rw [work.policy]
      · rw [work.mgmt]

end Sys2Proof.Machine

namespace Sys2Proof.Machine

/-! ### Alerts queued one after another (R162, R163) -/

theorem foldl_queueAlert_work (l : List AlertRecord) (s : State) : SlotWork s (l.foldl State.queueAlert s) :=
  SlotWork.foldl _ SlotWork.queueAlert l s

theorem foldl_queueAlert_slots (l : List AlertRecord) (s : State) :
    (l.foldl State.queueAlert s).slots = s.slots := by
  induction l generalizing s with
  | nil => rfl
  | cons r l ih => exact (ih _).trans (s.queueAlert_slots r)

theorem foldl_queueAlert_table (l : List AlertRecord) (s : State) :
    (l.foldl State.queueAlert s).table = s.table := by
  induction l generalizing s with
  | nil => rfl
  | cons r l ih => exact (ih _).trans (s.queueAlert_table r)

/-- Alerts change of the report unit the outbox and the lost count alone. -/
theorem foldl_queueAlert_report (l : List AlertRecord) (s : State) :
    (l.foldl State.queueAlert s).report = { s.report with
      outbox := (l.foldl State.queueAlert s).report.outbox
      lostCount := (l.foldl State.queueAlert s).report.lostCount } := by
  induction l generalizing s with
  | nil => rfl
  | cons r l ih =>
    rw [List.foldl_cons, ih, s.queueAlert_report r]

/-- Alerts that all find room join the outbox in order (R162). -/
theorem foldl_queueAlert_room (l : List AlertRecord) (s : State)
    (room : s.report.outbox.length + l.length ≤ 32) :
    l.foldl State.queueAlert s = { s with report := { s.report with
      outbox := s.report.outbox ++ l.map fun r => ⟨r, s.mgmt.chain⟩ } } := by
  induction l generalizing s with
  | nil => simp
  | cons r l ih =>
    rw [List.length_cons] at room
    rw [List.foldl_cons, State.queueAlert_room s r (show _ < 32 by omega), ih]
    · simp
    · simp only [List.length_append, List.length_singleton]
      omega

/-- The alert after those that fill the outbox is lost and counted (R163). -/
theorem foldl_queueAlert_lost (l : List AlertRecord) (r : AlertRecord) (s : State)
    (fills : s.report.outbox.length + l.length = 32) :
    (l ++ [r]).foldl State.queueAlert s = { s with
      report := { s.report with
        outbox := s.report.outbox ++ l.map fun r => ⟨r, s.mgmt.chain⟩
        lostCount := satAdd Config.max16 s.report.lostCount 1 }
      mgmt := { s.mgmt with flags := { s.mgmt.flags with outboxLost := true } } } := by
  rw [List.foldl_append, foldl_queueAlert_room l s fills.le]
  refine State.queueAlert_full _ r ?_
  simp [Config.outboxCapacity, fills]

/-! ### The slot records at a soft reset (R115) -/

/-- The state that follows a soft reset (R115). -/
theorem SlotRecord.stateAfterSoft_eq (r : SlotRecord) : r.stateAfterSoft =
    if r.state.accepting = true then
      if r.fencePending = true ∧ r.manual = true then .fenced else .probation
    else if r.state = .draining then
      if r.fencePending = true ∧ r.manual = true then .fenced else .parked
    else if r.state = .fenced then if r.manual = true then .fenced else .probation
    else r.state := by
  unfold SlotRecord.stateAfterSoft
  cases r.state <;> simp [SlotState.accepting]

/-- A slot stays or becomes FENCED by its MANUAL source alone (R115). -/
theorem SlotRecord.manual_of_stateAfterSoft {r : SlotRecord} (h : r.stateAfterSoft = .fenced) :
    r.manual = true := by
  by_contra released
  rw [Bool.not_eq_true] at released
  cases state : r.state <;> simp [SlotRecord.stateAfterSoft, state, released] at h

/-- The record after a soft reset, where the cancelled probe and the emptied table have left of the old one
its configuration and ceiling (R115). -/
theorem SlotRecord.softReset_eq {pre r : SlotRecord} {st : SlotState} {o : ProbeOutcome}
    (h : r = { pre.clearEntries with state := st, lastProbe := o }) :
    pre.softReset r = { SlotRecord.loaded pre.config with
      state := pre.stateAfterSoft
      manual := decide (pre.stateAfterSoft = .fenced)
      ceiling := if pre.stateAfterSoft = .probation then pre.config.rampStart else pre.ceiling
      settling := if pre.stateAfterSoft = .probation then 2 else 0
      lastProbe := o } := by
  have manual : (decide (pre.stateAfterSoft = .fenced) && pre.manual) =
      decide (pre.stateAfterSoft = .fenced) := by
    by_cases fenced : pre.stateAfterSoft = .fenced
    · simp [SlotRecord.manual_of_stateAfterSoft fenced]
    · simp [fenced]
  subst h
  simp only [SlotRecord.softReset, manual]
  rfl

/-! ### The blocks at a soft reset (R207) -/

theorem State.slot_softBlocks (s : State) (i : SlotIndex) :
    s.softBlocks.slot i = { SlotRecord.loaded (s.slot i).config with
      state := (s.slot i).stateAfterSoft
      manual := decide ((s.slot i).stateAfterSoft = .fenced)
      ceiling := if (s.slot i).stateAfterSoft = .probation then (s.slot i).config.rampStart
        else (s.slot i).ceiling
      settling := if (s.slot i).stateAfterSoft = .probation then 2 else 0
      lastProbe := if s.engine.inFlight.map InFlight.slot = some i then .cancelled
        else (s.slot i).lastProbe } := by
  obtain ⟨st, cleared, -⟩ := s.cancelProbe_clear i
  rw [← SlotRecord.softReset_eq cleared]
  unfold State.softBlocks
  simp only [State.slot, Fin.getElem_fin, Vector.getElem_ofFn]
  exact congrArg _ (State.slot_updAllSlots _ _ i)

theorem State.softBlocks_mgmt (s : State) : s.softBlocks.mgmt = { s.mgmt with
    command := none
    snapshot := .cleared
    claimTimer := if s.mgmt.mode = .unclaimed then some ⟨s.mgmt.claimTimeout, 0⟩
      else s.mgmt.claimTimer } := by
  have mgmt := s.cancelProbe_work.mgmt
  show { s.cancelProbe.mgmt with
    snapshot := .cleared, flags := s.mgmt.flags, command := none, claimTimer :=
      if s.mgmt.mode = Mode.unclaimed then some ⟨s.mgmt.claimTimeout, 0⟩ else s.mgmt.claimTimer } = _
  rw [mgmt]

theorem State.softBlocks_report (s : State) :
    s.softBlocks.report = ⟨[], 0, false, 0, 0, s.report.bounceQueue⟩ := by
  show s.cancelProbe.report.softReset = _
  unfold ReportUnit.softReset
  rw [s.cancelProbe_work.bounce]

theorem State.softBlocks_time (s : State) : s.softBlocks.time = s.time.softReset :=
  congrArg TimeBase.softReset s.cancelProbe_work.time

/-- The engine at a soft reset: the probe in flight cancelled, the request set emptied (R156, R159). -/
theorem State.softBlocks_engine (s : State) : s.softBlocks.engine = { s.engine with
    inFlight := none
    requests := Vector.replicate 32 none
    pendingFrame := s.cancelProbe.engine.pendingFrame
    last := s.cancelProbe.engine.last } := by
  show { s.cancelProbe.engine with requests := Vector.replicate 32 none } = _
  cases flies : s.engine.inFlight with
  | none => rw [State.cancelProbe_idle flies, ← flies]
  | some p =>
    rw [State.cancelProbe_engine flies]
    rfl

/-! ### The alerts of a soft reset (R116) -/

/-- The SLOT_STATE alerts of a soft reset that leaves `t`, in the order of the slots `l`. -/
def State.resetRecords (before t : State) (l : List SlotIndex) : List AlertRecord :=
  (l.filter fun i => decide ((t.slot i).state ≠ (before.slot i).state)).map fun i =>
    .slotState (t.slotAddr i) (before.slot i).state (t.slot i).state .reset

/-- The alerts of the slots are queued one after another: an alert touches neither slots nor watch base. -/
theorem foldl_resetAlert (before t : State) (l : List SlotIndex) (u : State) (slots : u.slots = t.slots)
    (base : u.mgmt.watchBase = t.mgmt.watchBase) :
    l.foldl (State.resetAlert before) u = (before.resetRecords t l).foldl State.queueAlert u := by
  induction l generalizing u with
  | nil => rfl
  | cons i l ih =>
    have slot : u.slot i = t.slot i := by rw [State.slot, slots]; rfl
    have addr : u.slotAddr i = t.slotAddr i := by rw [State.slotAddr, base]; rfl
    rw [List.foldl_cons, State.resetAlert, slot, addr]
    by_cases same : (before.slot i).state = (t.slot i).state
    · rw [if_pos same, ih u slots base]
      simp [State.resetRecords, same]
    · rw [if_neg same, ih _ (by rw [State.queueAlert_slots, slots])
        (by rw [State.queueAlert_watchBase, base])]
      simp [State.resetRecords, Ne.symm same]

/-- The alerts of a soft reset, ARRIVAL first (R116). -/
def State.resetAlerts (s : State) : List AlertRecord :=
  .arrival .soft s.mgmt.mode s.mgmt.chain s.store.loadOutcome 1 :: s.resetRecords s.softBlocks allSlots

/-- The soft reset is its blocks, then its alerts (R116, R207). -/
theorem State.softReset_eq (s : State) :
    s.softReset = s.resetAlerts.foldl State.queueAlert s.softBlocks := by
  unfold State.softReset State.resetAlerts
  dsimp only
  rw [foldl_resetAlert s s.softBlocks allSlots _ (State.queueAlert_slots _ _)
    (State.queueAlert_watchBase _ _), List.foldl_cons, Config.revisionCode]

theorem State.softReset_work (s : State) : SlotWork s.softBlocks s.softReset := by
  rw [State.softReset_eq]
  exact foldl_queueAlert_work _ _

theorem State.softReset_table (s : State) : s.softReset.table = [] := by
  rw [State.softReset_eq, foldl_queueAlert_table]
  rfl

theorem State.slot_softReset (s : State) (i : SlotIndex) : s.softReset.slot i = s.softBlocks.slot i := by
  rw [State.softReset_eq, State.slot, foldl_queueAlert_slots]
  rfl

theorem State.softReset_mgmt (s : State) : s.softReset.mgmt = { s.mgmt with
    command := none
    snapshot := .cleared
    flags := s.softReset.mgmt.flags
    claimTimer := if s.mgmt.mode = .unclaimed then some ⟨s.mgmt.claimTimeout, 0⟩
      else s.mgmt.claimTimer } := by
  have work := s.softReset_work.mgmt
  rwa [State.softBlocks_mgmt] at work

theorem State.softReset_report (s : State) : s.softReset.report =
    ⟨s.softReset.report.outbox, s.softReset.report.lostCount, false, 0, 0, s.report.bounceQueue⟩ := by
  have report := foldl_queueAlert_report s.resetAlerts s.softBlocks
  rwa [← State.softReset_eq, State.softBlocks_report] at report

theorem State.softReset_engine (s : State) : s.softReset.engine = { s.engine with
    inFlight := none
    requests := Vector.replicate 32 none
    pendingFrame := s.cancelProbe.engine.pendingFrame
    last := s.cancelProbe.engine.last } :=
  s.softReset_work.engine.trans s.softBlocks_engine

/-- The alerts of a soft reset find room in the emptied outbox (R116). -/
theorem State.softReset_room {s : State} (room : s.resetAlerts.length ≤ 32) :
    s.softReset.mgmt.flags = s.mgmt.flags ∧ s.softReset.report.lostCount = 0 ∧
      s.softReset.report.outbox = s.resetAlerts.map fun r => ⟨r, s.mgmt.chain⟩ := by
  rw [State.softReset_eq, foldl_queueAlert_room _ _ (by rw [State.softBlocks_report]; simpa using room)]
  simp only [State.softBlocks_report, State.softBlocks_mgmt, List.nil_append, and_self]

/-- Of 33 alerts the last is lost and counted (R163). -/
theorem State.softReset_lost {s : State} {l : List AlertRecord} {r : AlertRecord}
    (alerts : s.resetAlerts = l ++ [r]) (fills : l.length = 32) :
    s.softReset.mgmt.flags = { s.mgmt.flags with outboxLost := true } ∧
      s.softReset.report.lostCount = 1 ∧
      s.softReset.report.outbox = l.map fun r => ⟨r, s.mgmt.chain⟩ := by
  rw [State.softReset_eq, alerts,
    foldl_queueAlert_lost l r _ (by rw [State.softBlocks_report]; simpa using fills)]
  simp only [State.softBlocks_report, State.softBlocks_mgmt, List.nil_append, true_and, and_true]
  rfl

/-- Settles O40: the blocks of the reset, then its alerts, which find room but for the last of 33. -/
theorem softReset : Obligations.SoftReset := by
  intro s seq how holds after changed
  have after_eq : ∀ i, (s.slot i).stateAfterSoft = after (s.slot i) := fun i =>
    (s.slot i).stateAfterSoft_eq
  have alerts : s.resetAlerts = .arrival .soft s.mgmt.mode s.mgmt.chain s.store.loadOutcome 1 ::
      changed.map fun i => .slotState (s.mgmt.watchBase + i.val) (s.slot i).state
        (after (s.slot i)) .reset := by
    unfold State.resetAlerts State.resetRecords State.slotAddr
    simp only [State.slot_softBlocks, after_eq, State.softBlocks_mgmt]
    rfl
  have work := s.softReset_work
  have blocks := s.cancelProbe_work
  refine ⟨s.softReset,
    congrArg Host.Outcome.next (State.runCommand_done holds rfl (fun _ => by decide) rfl rfl rfl),
    work.trunk.trans blocks.trunk, work.policy.trans blocks.policy, work.store.trans blocks.store,
    work.pending.trans blocks.pending, s.softReset_table, work.time.trans s.softBlocks_time, ?_,
    s.softReset_mgmt, fun i => ?_, ?_⟩
  · unfold State.request?
    rw [State.softReset_engine]
    refine ⟨rfl, fun i => by simp, rfl, rfl, rfl, rfl, rfl, rfl, rfl, fun p flies => ?_, fun idle => ?_⟩
    · rw [State.cancelProbe_engine flies]
      exact ⟨rfl, rfl⟩
    · rw [State.cancelProbe_idle idle]
      exact ⟨rfl, rfl⟩
  · rw [State.slot_softReset, State.slot_softBlocks, after_eq]
  · refine ⟨by rw [State.softReset_report], by rw [State.softReset_report], by rw [State.softReset_report],
      by rw [State.softReset_report], fun room => ?_, fun all => ?_⟩
    · have queued := State.softReset_room (s := s) (by
        rw [alerts, List.length_cons, List.length_map]
        omega)
      rwa [alerts, List.map_cons, List.map_map] at queued
    · obtain ⟨last, lost⟩ : ∃ i, changed.drop 31 = [i] :=
        List.length_eq_one_iff.mp (by rw [List.length_drop, all])
      rw [← List.take_append_drop 31 changed, lost, List.map_append, ← List.cons_append] at alerts
      have queued := State.softReset_lost alerts (by
        rw [List.length_cons, List.length_map, List.length_take, all]
        rfl)
      rwa [List.map_cons, List.map_map] at queued

end Sys2Proof.Machine

namespace Sys2Proof.Machine

/-!
SUPPORT. What every step keeps of the tracking blocks: their quiet outside WATCHING (R35, R89, R204), and the
agreement of the table with the slot records (R35, R37, R66). One relation carries both, so that the commands
are gone through once.
-/

/-! ### The relation of a step to the two invariants -/

/-- What the two invariants read: the mode, the table, the slot records, the probe in flight and the request
set. -/
def State.tracking (s : State) :=
  (s.mgmt.mode, s.table, s.slots, s.engine.inFlight, s.engine.requests)

/-- From `s` to `t` the quiet outside WATCHING is kept, and, given it, the agreement of table and slots. -/
structure TrackingStep (s t : State) : Prop where
  quiet : s.QuietOutsideWatching → t.QuietOutsideWatching
  consistent : s.QuietOutsideWatching → s.TableConsistent → t.TableConsistent

theorem State.QuietOutsideWatching.of_watching {s : State} (h : s.mode = .watching) :
    s.QuietOutsideWatching :=
  ⟨absurd h, absurd h, absurd h, absurd h⟩

/-- A slot that is not VACANT or PARKED shows that the mode is WATCHING. -/
theorem State.QuietOutsideWatching.of_watched {s : State} (q : s.QuietOutsideWatching) {i : SlotIndex}
    (watched : (s.slot i).state.unwatched = false) : s.mode = .watching := by
  by_contra other
  simp [q.slots other i] at watched

/-- So does an entry of the table. -/
theorem State.QuietOutsideWatching.of_mem {s : State} (q : s.QuietOutsideWatching) {e : Entry}
    (he : e ∈ s.table) : s.mode = .watching := by
  by_contra other
  simp [q.table other] at he

/-- So does a probe in flight. -/
theorem State.QuietOutsideWatching.of_inFlight {s : State} (q : s.QuietOutsideWatching) {p : InFlight}
    (flies : s.engine.inFlight = some p) : s.mode = .watching := by
  by_contra other
  simp [q.engine other] at flies

theorem SlotWork.mode {s t : State} (w : SlotWork s t) : t.mode = s.mode := w.toClose.mode

namespace TrackingStep

/-- An operation that leaves what the invariants read. -/
theorem same {s t : State} (h : t.tracking = s.tracking) : TrackingStep s t := by
  simp only [State.tracking, Prod.mk.injEq] at h
  obtain ⟨mode, table, slots, inFlight, requests⟩ := h
  have slot : ∀ i, t.slot i = s.slot i := fun i => by rw [State.slot, State.slot, slots]
  have request : ∀ i, t.request? i = s.request? i := fun i => by
    rw [State.request?, State.request?, requests]
  have outside : t.mode ≠ .watching → s.mode ≠ .watching := fun h e => h (mode.trans e)
  exact
    { quiet := fun q =>
        { table := fun h => table.trans (q.table (outside h))
          slots := fun h i => (slot i).symm ▸ q.slots (outside h) i
          engine := fun h => inFlight.trans (q.engine (outside h))
          requests := fun h i => (request i).trans (q.requests (outside h) i) }
      consistent := fun _ c => c.congr table inFlight slot }

theorem refl (s : State) : TrackingStep s s := same rfl

theorem trans {s t u : State} (a : TrackingStep s t) (b : TrackingStep t u) : TrackingStep s u where
  quiet q := b.quiet (a.quiet q)
  consistent q c := b.consistent (a.quiet q) (a.consistent q c)

/-- Work that only WATCHING knows, and that leaves the mode: the quiet asks nothing of it. -/
theorem inWatching {s t : State} (watching : s.QuietOutsideWatching → s.mode = .watching)
    (mode : t.mode = s.mode) (consistent : s.TableConsistent → t.TableConsistent) : TrackingStep s t where
  quiet q := .of_watching (mode.trans (watching q))
  consistent _ := consistent

theorem foldl {α : Type} (f : State → α → State) (h : ∀ s a, TrackingStep s (f s a)) (l : List α)
    (s : State) : TrackingStep s (l.foldl f s) := by
  induction l generalizing s with
  | nil => exact refl s
  | cons a l ih => exact (h s a).trans (ih _)

theorem queueAlert (s : State) (r : AlertRecord) : TrackingStep s (s.queueAlert r) :=
  same (by simp [State.tracking])

/-- A slot record rewritten: its entries stand, its state admits them, and it is not its own twin. -/
theorem setSlot (s : State) (i : SlotIndex) (r : SlotRecord)
    (unwatched : (s.slot i).state.unwatched = true → r.state.unwatched = true)
    (count : r.requestCount = (s.slot i).requestCount) (flag : r.probeEntry = (s.slot i).probeEntry)
    (fits : (s.slot i).Fits → r.Fits)
    (twin : (s.slot i).config.twin ≠ some i → r.config.twin ≠ some i) :
    TrackingStep s (s.setSlot i r) where
  quiet q :=
    { table := q.table
      slots := fun h j => by
        rw [State.slot_setSlot]
        split
        · exact unwatched (q.slots h i)
        · exact q.slots h j
      engine := q.engine
      requests := q.requests }
  consistent _ c := by
    have cases : ∀ j, (s.setSlot i r).slot j = s.slot j ∨ j = i ∧ (s.setSlot i r).slot j = r := fun j => by
      rw [State.slot_setSlot]
      by_cases h : i = j
      · exact .inr ⟨h.symm, if_pos h⟩
      · exact .inl (if_neg h)
    refine State.TableAgrees.consistent ⟨c.keys, fun j => ?_, fun j => ?_, c.inFlight, c.partners,
      fun j => ?_⟩ fun j => ?_
    · obtain other | ⟨rfl, self⟩ := cases j
      · rw [other]; exact c.counts j
      · rw [self, count]; exact c.counts j
    · obtain other | ⟨rfl, self⟩ := cases j
      · rw [other]; exact c.probes j
      · rw [self, flag]; exact c.probes j
    · obtain other | ⟨rfl, self⟩ := cases j
      · rw [other]; exact c.twins j
      · rw [self]; exact twin (c.twins j)
    · obtain other | ⟨rfl, self⟩ := cases j
      · rw [other]; exact c.fits j
      · rw [self]; exact fits (c.fits j)

/-- A slot record rewritten but for state and entries. -/
theorem setFields (s : State) (i : SlotIndex) (r : SlotRecord) (state : r.state = (s.slot i).state)
    (count : r.requestCount = (s.slot i).requestCount) (flag : r.probeEntry = (s.slot i).probeEntry)
    (twin : (s.slot i).config.twin ≠ some i → r.config.twin ≠ some i) :
    TrackingStep s (s.setSlot i r) :=
  setSlot s i r (fun h => state ▸ h) count flag
    (fun f => ⟨fun h => count ▸ f.idle (state ▸ h), fun h => flag ▸ f.unwatched (state ▸ h)⟩) twin

/-- A change of a slot record that leaves state, entries and twin alone. -/
theorem updFields (s : State) (i : SlotIndex) (f : SlotRecord → SlotRecord)
    (kept : ∀ r : SlotRecord, r.SameEntries (f r)) (state : ∀ r, (f r).state = r.state) :
    TrackingStep s (s.updSlot i f) :=
  setFields s i _ (state _) (kept _).count (kept _).flag (kept _).twin.trans_ne

end TrackingStep

/-! ### What keeps the mode -/

theorem State.closeProbe_mode (s : State) (p : InFlight) (o : ProbeOutcome) (x : Option ProbeAnswer) :
    (s.closeProbe p o x).mode = s.mode := by
  unfold State.closeProbe
  dsimp only
  split
  · rfl
  · exact (SlotWork.removeEntry _ _).mode

theorem State.endProbe_mode (s : State) (p : InFlight) (o : ProbeOutcome) (x : Option ProbeAnswer) :
    (s.endProbe p o x).mode = s.mode :=
  (SlotWork.probeOutcome _ p o).mode.trans (s.closeProbe_mode p o x)

theorem State.probeAnswer_mode (s : State) (i : SlotIndex) (tag : Tag) (d : Digest) :
    (s.probeAnswer i tag d).mode = s.mode := by
  unfold State.probeAnswer
  dsimp only
  split
  · rfl
  · split
    · exact State.endProbe_mode ..
    · rfl

theorem State.serviceScan_mode (l : List SlotIndex) (s : State) : (s.serviceScan l).mode = s.mode := by
  induction l generalizing s with
  | nil => rfl
  | cons i l ih =>
    unfold State.serviceScan
    split
    · exact ih s
    · split
      · rfl
      · exact ih _

theorem State.placeBounce_mode (s : State) (i : SlotIndex) (f : Frame) (reason : BounceReason)
    (full : Bool) : (s.placeBounce i f reason full).mode = s.mode := by
  rw [State.placeBounce_eq]
  rfl

theorem State.linkTwin_mode (s : State) (i : SlotIndex) (f : Frame) :
    (s.linkTwin i f).mode = s.mode := by
  obtain same | ⟨_, _, _, _, linked⟩ := s.linkTwin_cases i f
  · rw [same]
  · rw [linked]
    rfl

theorem State.carryAdmission_mode (s : State) (i : SlotIndex) (f : Frame) :
    (s.carryAdmission i f).mode = s.mode := by
  unfold State.carryAdmission
  split
  case h_3 => exact State.linkTwin_mode _ i f
  case h_7 reason full _ =>
    split
    · exact State.placeBounce_mode _ i f reason full
    · rfl
  all_goals rfl

theorem State.carryMatching_mode (s : State) (i : SlotIndex) (f : Frame) (a b : Bool) :
    (s.carryMatching i f a b).mode = s.mode := by
  unfold State.carryMatching
  dsimp only
  split
  case h_1 => exact State.probeAnswer_mode ..
  case h_4 e _ =>
    exact ((SlotWork.countCompletion _ e).trans (SlotWork.disposeAnswered _ e (crc f.payload) a b)).mode
  all_goals rfl

namespace TrackingStep

/-! ### Frames -/

theorem clearUpStage (s : State) : TrackingStep s s.clearUpStage := same rfl

theorem forwardDown (s : State) (f : Frame) : TrackingStep s (s.forwardDown f) := same rfl

theorem bufferCommand (s : State) (f : Frame) (how : Addressing) :
    TrackingStep s (s.bufferCommand f how) := by
  unfold State.bufferCommand
  split <;> exact same rfl

theorem takeCommand (s : State) (f : Frame) : TrackingStep s (s.takeCommand f) := by
  unfold State.takeCommand
  dsimp only
  split
  · exact (clearUpStage s).trans (bufferCommand _ f .own)
  · rename_i how _ _
    have copied := (clearUpStage s).trans (bufferCommand _ f how)
    split
    · exact copied
    · exact copied.trans (forwardDown _ _)
  · split <;> exact same rfl

theorem takeRequest (s : State) (f : Frame) : TrackingStep s (s.takeRequest f) := by
  unfold State.takeRequest
  split
  · rename_i watching
    split
    · rename_i i _
      exact inWatching (fun _ => watching) (s.carryAdmission_mode i f) fun c => c.carryAdmission i f
    · exact same rfl
  · exact same rfl

theorem classifyUp (s : State) (f : Frame) : TrackingStep s (s.classifyUp f) := by
  unfold State.classifyUp
  split
  · exact takeRequest s f
  · exact takeCommand s f
  all_goals exact same rfl

theorem takeResponse (s : State) (f : Frame) (a b : Bool) : TrackingStep s (s.takeResponse f a b) := by
  unfold State.takeResponse
  split
  · rename_i watching
    split
    · rename_i i _
      exact inWatching (fun _ => watching) (s.carryMatching_mode i f a b) fun c => c.carryMatching i f a b
    · exact same rfl
  · exact same rfl

theorem classifyDown (s : State) (f : Frame) (a b : Bool) : TrackingStep s (s.classifyDown f a b) := by
  unfold State.classifyDown
  split
  · exact takeResponse s f a b
  all_goals exact same rfl

/-! ### The trunk interface -/

theorem countBad (s : State) (p : Port) : TrackingStep s (s.countBad p) := by
  cases p <;> exact same rfl

theorem setStage (s : State) (f : Frame) (p : Port) : TrackingStep s (s.setStage f p) := by
  cases p <;> exact same rfl

theorem frameEnds {s judged : State} (p : Port) (h : TrackingStep s judged) :
    TrackingStep s (s.frameEnds p judged) := by
  unfold State.frameEnds
  split
  · exact refl s
  · split
    · cases p <;> exact same rfl
    · exact h

theorem outboxFreed (s : State) : TrackingStep s s.outboxFreed := by
  unfold State.outboxFreed
  split
  · exact (same (s := s) (t := { s with report := { s.report with lostCount := 0 } }) rfl).trans (queueAlert _ _)
  · split
    · exact (same (s := s) (t := { s with report := { s.report with censusOwed := false, owedVerdicts := 0 } })
        rfl).trans (queueAlert _ _)
    · exact refl s

theorem sendInserted (s : State) : TrackingStep s s.sendInserted := by
  unfold State.sendInserted
  split
  case h_3 r rest _ _ _ =>
    have sent : TrackingStep s
        (State.beginUp { s with report := { s.report with outbox := rest } } r.frame .inserted) := same rfl
    dsimp only
    split
    · exact sent.trans (outboxFreed _)
    · exact sent
  all_goals exact same rfl

theorem sendThroughUp (s : State) : TrackingStep s s.sendThroughUp := by
  unfold State.sendThroughUp
  split <;> exact same rfl

theorem sendThroughDown (s : State) : TrackingStep s s.sendThroughDown := by
  unfold State.sendThroughDown
  split <;> exact same rfl

theorem sendProbe (s : State) : TrackingStep s s.sendProbe := by
  unfold State.sendProbe
  split <;> exact same rfl

/-! ### Time -/

theorem countClaim (s : State) (n : Nat) : TrackingStep s (s.countClaim n) := by
  unfold State.countClaim
  split <;> exact same rfl

theorem takeTick (s : State) : TrackingStep s s.takeTick := by
  unfold State.takeTick
  split
  · exact refl s
  · exact (countClaim s _).trans (same rfl)

theorem refclkPeriod (s : State) : TrackingStep s s.refclkPeriod := by
  unfold State.refclkPeriod
  split
  · exact refl s
  · split
    · split
      · exact refl s
      · exact (countClaim s 1).trans (same rfl)
    · exact takeTick s

/-! ### Entries and probes: their events are found in WATCHING alone -/

/-- The event of an entry of the table. -/
theorem ofEntry {s t : State} {e : Entry} (found : e ∈ s.table) (mode : t.mode = s.mode)
    (consistent : s.TableConsistent → t.TableConsistent) : TrackingStep s t :=
  inWatching (fun q => q.of_mem found) mode consistent

/-- The event of a slot that is neither VACANT nor PARKED. -/
theorem ofWatched {s t : State} {i : SlotIndex} (watched : (s.slot i).state.unwatched = false)
    (mode : t.mode = s.mode) (consistent : s.TableConsistent → t.TableConsistent) : TrackingStep s t :=
  inWatching (fun q => q.of_watched watched) mode consistent

theorem endProbe (s : State) {p : InFlight} (flies : s.engine.inFlight = some p) (o : ProbeOutcome)
    (x : Option ProbeAnswer) : TrackingStep s (s.endProbe p o x) :=
  inWatching (fun q => q.of_inFlight flies) (s.endProbe_mode p o x) fun c => c.endProbe p flies o x

theorem cancelProbe (s : State) : TrackingStep s s.cancelProbe := by
  unfold State.cancelProbe
  split
  · exact refl s
  · exact endProbe s ‹_› _ _

theorem setChain (s : State) (a : ChainAddr) : TrackingStep s (s.setChain a) := by
  unfold State.setChain
  dsimp only
  split
  · exact same rfl
  · exact (cancelProbe s).trans (same rfl)

/-- A deadline makes an entry that is no PROBE entry OVERDUE (R56). -/
theorem deadline (s : State) {e : Entry} (found : e ∈ s.table) (request : e.kind = .request) :
    TrackingStep s (s.updEntry e.key fun e => { e with state := .overdue }) :=
  ofEntry found rfl fun c =>
    (c.agrees.updEntry e.key (fun e => { e with state := .overdue }) (fun _ => rfl) (fun _ => rfl)
      (fun _ => rfl)
      (fun x hx key probe => by
        rw [c.agrees.unique hx found key, request] at probe
        cases probe)
      fun x hx _ => c.partners x hx).consistent c.fits

/-! ### Boundaries and MARK -/

theorem closeTail (s : State) (i : SlotIndex) : TrackingStep s (s.closeTail i) :=
  updFields s i (fun r => (r.paceDown (s.policySet i).quietGap).rollover) (fun _ => ⟨rfl, rfl, rfl⟩)
    fun _ => rfl

theorem slotTurn (start : Tick) (s : State) (i : SlotIndex) :
    TrackingStep s (State.slotTurn start s i) := by
  unfold State.slotTurn
  split
  · rename_i watched
    exact ofWatched (i := i) (by simp [SlotState.unwatched, watched]) (CloseWork.windowClose s i start).mode
      fun c => c.windowClose i start
  · split
    · exact closeTail s i
    · exact refl s

theorem boundaryCloses (s : State) (turns : List SlotIndex) : TrackingStep s (s.boundaryCloses turns) :=
  (same (s := s) (t := { s with time := s.time.openWindow.advancePostscale }) rfl).trans
    (foldl _ (slotTurn s.time.windowStart) (turnSequence turns) _)

theorem boundaryCensus (s : State) (due : Bool) : TrackingStep s (s.boundaryCensus due) := by
  unfold State.boundaryCensus
  split
  · unfold State.censusInstant
    split
    · unfold State.censusAlert
      split
      · exact (queueAlert s _).trans (same rfl)
      · exact same rfl
    · exact same rfl
  · exact refl s

theorem boundarySnapshot (s : State) (due : Bool) : TrackingStep s (s.boundarySnapshot due) := by
  unfold State.boundarySnapshot
  split
  · unfold State.censusSnapshot
    split <;> exact same rfl
  · exact refl s

theorem boundary (s : State) (turns : List SlotIndex) : TrackingStep s (s.boundary turns) :=
  ((boundaryCloses s turns).trans (boundaryCensus _ _)).trans (boundarySnapshot _ _)

theorem markCommit (s : State) : TrackingStep s s.markCommit := by
  unfold State.markCommit
  split <;> exact same rfl

theorem markSnapshot (s : State) : TrackingStep s s.markSnapshot := by
  unfold State.markSnapshot
  split <;> exact same rfl

theorem markEvent (s : State) (orders : EdgeOrders) : TrackingStep s (s.markEvent orders) := by
  unfold State.markEvent
  dsimp only
  split
  · have closed := ((boundaryCloses s orders.turns).trans
      (boundaryCensus _ s.time.censusDue)).trans (markCommit _)
    split
    · exact (closed.trans (markSnapshot _)).trans (boundarySnapshot _ _)
    · exact (closed.trans (boundarySnapshot _ _)).trans (markSnapshot _)
  · exact (markCommit s).trans (markSnapshot _)

theorem takeMark (s : State) (level : Bool) (orders : EdgeOrders) :
    TrackingStep s (s.takeMark level orders) := by
  unfold State.takeMark
  split
  · exact (same (s := s) (t := s.sampleMark true) rfl).trans (markEvent _ orders)
  · exact same rfl

/-! ### Resets, start-up and modes -/

end TrackingStep
end Sys2Proof.Machine

namespace Sys2Proof.Machine

/-! ### The record at RELEASE (R97), and what RELEASE leaves (R206) -/

/-- The record that a RELEASE leaves of `r`: of a watched slot a PARKED one (R97). -/
def SlotRecord.atRelease (r : SlotRecord) : SlotRecord := if r.state.watched then r.toReleased else r

theorem State.slot_releaseSlot_self (s : State) (i : SlotIndex) :
    (s.releaseSlot i).slot i = (s.slot i).atRelease := by
  unfold State.releaseSlot SlotRecord.atRelease
  split
  · rw [State.queueAlert_slot, State.slot_updSlot_self]
  · rfl

theorem State.slot_releaseSlot_other (s : State) {i j : SlotIndex} (h : i ≠ j) :
    (s.releaseSlot i).slot j = s.slot j := by
  unfold State.releaseSlot
  split
  · rw [State.queueAlert_slot, State.slot_updSlot, if_neg h]
  · rfl

theorem State.releaseSlot_table (s : State) (i : SlotIndex) : (s.releaseSlot i).table = s.table := by
  unfold State.releaseSlot
  split
  · rw [State.queueAlert_table, State.updSlot_table]
  · rfl

/-- The probe cancelled, the request set and the table emptied: what a RELEASE begins with (R206). -/
def State.emptied (s : State) : State := s.cancelProbe.clearRequests.emptyTable

theorem State.slot_emptied (s : State) (i : SlotIndex) :
    s.emptied.slot i = (s.cancelProbe.slot i).clearEntries := State.slot_updAllSlots _ _ i

/-- The slots at a RELEASE, in ascending order, before the mode changes (R97, R206). -/
def State.releasedSlots (s : State) : State := allSlots.foldl State.releaseSlot s.emptied

theorem State.releasedSlots_work (s : State) : SlotWork s.emptied s.releasedSlots :=
  SlotWork.foldl _ SlotWork.releaseSlot allSlots _

theorem State.slot_releasedSlots (s : State) (i : SlotIndex) :
    s.releasedSlots.slot i = (s.cancelProbe.slot i).clearEntries.atRelease := by
  have folded := foldl_slot (fun _ => SlotRecord.atRelease) State.slot_releaseSlot_self
    (fun s _ _ => s.slot_releaseSlot_other) allSlots allSlots_nodup s.emptied i
  rw [if_pos (mem_allSlots i), State.slot_emptied] at folded
  exact folded

theorem State.releasedSlots_table (s : State) : s.releasedSlots.table = [] := by
  have kept : ∀ (l : List SlotIndex) (u : State), (l.foldl State.releaseSlot u).table = u.table := by
    intro l
    induction l with
    | nil => exact fun _ => rfl
    | cons i l ih => exact fun u => (ih _).trans (u.releaseSlot_table i)
  exact kept allSlots s.emptied

theorem State.releaseEffect_eq (s : State) :
    s.releaseEffect = s.releasedSlots.changeMode .transparent := by
  unfold State.releaseEffect State.releasedSlots State.emptied
  rfl

@[simp] theorem State.changeMode_slot (s : State) (new : Mode) (i : SlotIndex) :
    (s.changeMode new).slot i = s.slot i := State.queueAlert_slot _ _ i

@[simp] theorem State.changeMode_table (s : State) (new : Mode) : (s.changeMode new).table = s.table :=
  State.queueAlert_table _ _

@[simp] theorem State.changeMode_engine (s : State) (new : Mode) : (s.changeMode new).engine = s.engine :=
  State.queueAlert_engine _ _

@[simp] theorem State.changeMode_mode (s : State) (new : Mode) : (s.changeMode new).mode = new :=
  State.queueAlert_mode _ _

theorem State.slot_releaseEffect (s : State) (i : SlotIndex) :
    s.releaseEffect.slot i = (s.cancelProbe.slot i).clearEntries.atRelease := by
  rw [State.releaseEffect_eq, State.changeMode_slot, State.slot_releasedSlots]

theorem State.releaseEffect_table (s : State) : s.releaseEffect.table = [] := by
  rw [State.releaseEffect_eq, State.changeMode_table, State.releasedSlots_table]

theorem State.releaseEffect_engine (s : State) :
    s.releaseEffect.engine = { s.cancelProbe.engine with requests := Vector.replicate 32 none } := by
  rw [State.releaseEffect_eq, State.changeMode_engine]
  exact s.releasedSlots_work.engine

/-! ### The two invariants of emptied tracking blocks -/

theorem State.TableConsistent.of_empty {s : State} (table : s.table = [])
    (count : ∀ i, (s.slot i).requestCount = 0) (flag : ∀ i, (s.slot i).probeEntry = false)
    (twin : ∀ i, (s.slot i).config.twin ≠ some i) : s.TableConsistent where
  keys := by simp [table]
  counts i := by simp [State.ageOrder, table, count i]
  probes i := by simp [table, flag i]
  inFlight := by simp [table]
  partners := by simp [table]
  idle i _ := count i
  unwatched i _ := flag i
  twins := twin

theorem State.QuietOutsideWatching.of_idle {s : State} (table : s.table = [])
    (slots : s.mode ≠ .watching → ∀ i, (s.slot i).state.unwatched = true)
    (engine : s.engine.inFlight = none) (requests : ∀ i, s.request? i = none) :
    s.QuietOutsideWatching :=
  ⟨fun _ => table, slots, fun _ => engine, fun _ => requests⟩

theorem SlotRecord.loaded_unwatched (c : SlotConfig) : (SlotRecord.loaded c).state.unwatched = true := by
  unfold SlotRecord.loaded
  cases c.configured <;> rfl

theorem SlotRecord.atRelease_unwatched (r : SlotRecord) : r.atRelease.state.unwatched = true := by
  unfold SlotRecord.atRelease
  split
  · rfl
  · rename_i unwatched
    simpa [SlotState.unwatched] using unwatched

/-- The entry counts and the twin of an emptied record stand at RELEASE. -/
theorem SlotRecord.atRelease_same (r : SlotRecord) : r.SameEntries r.atRelease := by
  unfold SlotRecord.atRelease
  split <;> exact ⟨rfl, rfl, rfl⟩

/-- No slot of the items that a load sets is its own twin (R86, R202). -/
theorem StoreImage.loadItems_twin (m : StoreImage) (i : SlotIndex) :
    (m.loadItems.slots[i]).twin ≠ some i := by
  unfold StoreImage.loadItems
  split
  · rename_i good
    simp only [StoreImage.good, Bool.and_eq_true] at good
    obtain ⟨_, _, slots, _⟩ := StoredItems.inRange_iff.mp good.2
    obtain ⟨_, _, _, _, _, twin⟩ := SlotConfig.inRange_iff.mp (slots i)
    exact twin
  · simp [StoredItems.default, SlotConfig.default]

/-- A soft reset leaves a VACANT or PARKED slot as it is (R115). -/
theorem SlotRecord.stateAfterSoft_unwatched {r : SlotRecord} (h : r.state.unwatched = true) :
    r.stateAfterSoft.unwatched = true := by
  cases state : r.state with
  | vacant => simp [SlotRecord.stateAfterSoft, state, SlotState.unwatched, SlotState.watched]
  | parked => simp [SlotRecord.stateAfterSoft, state, SlotState.unwatched, SlotState.watched]
  | probation | live | suspect | draining | fenced => rw [state] at h; cases h

namespace TrackingStep

theorem hardReset (s : State) (cause : StartCause) (lines : ResetLines) :
    TrackingStep s (s.hardReset cause lines) where
  quiet _ := .of_idle rfl (fun _ i => by rw [State.slot_hardReset]; exact SlotRecord.loaded_unwatched _)
    rfl (s.request?_hardReset cause lines)
  consistent _ _ := .of_empty rfl (fun i => by rw [State.slot_hardReset]; rfl)
    (fun i => by rw [State.slot_hardReset]; rfl) fun i => by
      rw [State.slot_hardReset]
      nofun

theorem finishLoad {s : State} (starting : s.mode = .starting) (inputs : LoadInputs) :
    TrackingStep s (s.finishLoad inputs) := by
  have other : s.mode ≠ .watching := by simp [starting]
  have table : (s.finishLoad inputs).table = s.table := State.queueAlert_table _ _
  have engine : (s.finishLoad inputs).engine.inFlight = s.engine.inFlight ∧
      (s.finishLoad inputs).engine.requests = s.engine.requests := by
    unfold State.finishLoad
    rw [State.queueAlert_engine]
    exact ⟨rfl, rfl⟩
  refine
    { quiet := fun q => .of_idle (table.trans (q.table other)) (fun _ i => ?_)
        (engine.1.trans (q.engine other)) fun i => ?_
      consistent := fun q _ => .of_empty (table.trans (q.table other)) (fun i => ?_) (fun i => ?_)
        fun i => ?_ }
  · rw [State.slot_finishLoad]
    exact SlotRecord.loaded_unwatched _
  · rw [State.request?, engine.2]
    exact q.requests other i
  · rw [State.slot_finishLoad]; rfl
  · rw [State.slot_finishLoad]; rfl
  · rw [State.slot_finishLoad]
    exact s.store.image.loadItems_twin i

/-- A change of mode that does not leave WATCHING. -/
theorem changeMode (s : State) (new : Mode) (h : s.mode ≠ .watching ∨ new = .watching) :
    TrackingStep s (s.changeMode new) := by
  refine TrackingStep.trans (t := { s with mgmt := { s.mgmt with mode := new } })
    ⟨fun q => ?_, fun _ c => c.congr rfl rfl fun _ => rfl⟩ (queueAlert _ _)
  obtain other | rfl := h
  · exact ⟨fun _ => q.table other, fun _ => q.slots other, fun _ => q.engine other,
      fun _ => q.requests other⟩
  · exact .of_watching rfl

theorem claimEffect (s : State) : TrackingStep s s.claimEffect := by
  unfold State.claimEffect
  split
  · exact refl s
  · have begun := (same (s := s) (t := s.setClaimTimer none) rfl).trans
      (changeMode _ .watching (.inr rfl))
    refine begun.trans (inWatching (fun _ => ?_) (SlotWork.foldl _ SlotWork.claimSlot _ _).mode fun c =>
      State.TableConsistent.foldl _ (fun t i ct => ?_) _ c)
    · exact State.changeMode_mode _ _
    · unfold State.claimSlot
      split
      · exact ct.enterProbation i .claim
      · exact ct

theorem releaseEffect (s : State) : TrackingStep s s.releaseEffect where
  quiet _ := by
    refine .of_idle s.releaseEffect_table (fun _ i => ?_) ?_ fun i => ?_
    · rw [State.slot_releaseEffect]
      exact SlotRecord.atRelease_unwatched _
    · rw [State.releaseEffect_engine]
      exact s.cancelProbe_inFlight
    · simp [State.request?, State.releaseEffect_engine]
  consistent _ c := by
    have same := fun i => (s.cancelProbe.slot i).clearEntries.atRelease_same
    refine .of_empty s.releaseEffect_table (fun i => ?_) (fun i => ?_) fun i => ?_
    · rw [State.slot_releaseEffect, (same i).count]; rfl
    · rw [State.slot_releaseEffect, (same i).flag]; rfl
    · rw [State.slot_releaseEffect, (same i).twin]
      exact c.cancelProbe.twins i

theorem softReset (s : State) : TrackingStep s s.softReset where
  quiet q := by
    have mode : s.softReset.mode = s.mode := by
      unfold State.mode
      rw [State.softReset_mgmt]
    refine .of_idle s.softReset_table (fun h i => ?_) ?_ fun i => ?_
    · rw [State.slot_softReset, State.slot_softBlocks]
      exact SlotRecord.stateAfterSoft_unwatched (q.slots (mode ▸ h) i)
    · rw [State.softReset_engine]
    · simp [State.request?, State.softReset_engine]
  consistent _ c := by
    refine .of_empty s.softReset_table (fun i => ?_) (fun i => ?_) fun i => ?_
    · rw [State.slot_softReset, State.slot_softBlocks]; rfl
    · rw [State.slot_softReset, State.slot_softBlocks]; rfl
    · rw [State.slot_softReset, State.slot_softBlocks]
      exact c.twins i

end TrackingStep

/-! ### PARKED slots hold no entry -/

theorem SlotRecord.noEntry_iff {r : SlotRecord} :
    r.noEntry = true ↔ r.requestCount = 0 ∧ r.probeEntry = false := by
  simp [SlotRecord.noEntry]

theorem State.TableConsistent.enterParked {s : State} (c : s.TableConsistent) (i : SlotIndex)
    (cause : SlotCause) (empty : (s.slot i).noEntry = true) : (s.enterParked i cause).TableConsistent := by
  obtain ⟨count, flag⟩ := SlotRecord.noEntry_iff.mp empty
  exact (c.setSlot i (s.slot i).toParked ⟨rfl, rfl, rfl⟩ (.empty count flag)).queueAlert _

theorem State.TableConsistent.settleDrain {s : State} (c : s.TableConsistent) (i : SlotIndex) :
    (s.settleDrain i).TableConsistent := by
  unfold State.settleDrain
  split
  · rename_i drained
    exact c.enterParked i .drained drained.2.1
  · exact c

/-! ### Slot commands -/

theorem State.slot_dropTwinOf (s : State) (i j : SlotIndex) :
    ∃ t, (s.dropTwinOf i).slot j = (s.slot j).setTwin t := by
  unfold State.dropTwinOf
  split
  · exact ⟨(s.slot j).config.twin, rfl⟩
  · rw [State.slot_updSlot]
    split
    · subst_vars
      exact ⟨none, rfl⟩
    · exact ⟨(s.slot j).config.twin, rfl⟩

/-- A configuration read from the parameters of CONFIGURE_SLOT keeps the twin field (R87). -/
theorem State.parseConfig_twin {s : State} {i : SlotIndex} {twin : Option SlotIndex} {ps : List Byte}
    {c : SlotConfig} (h : s.parseConfig i twin ps = some c) : c.twin = twin := by
  unfold State.parseConfig at h
  simp only [Option.bind_eq_bind, Option.bind_eq_some_iff] at h
  obtain ⟨_, _, _, _, _, _, _, _, _, _, _, _, h⟩ := h
  split at h
  · rw [← Option.some.inj h]
  · cases h

namespace TrackingStep

theorem setRequest {s : State} (watching : s.mode = .watching) (i : SlotIndex) (o : Option ProbeOrigin) :
    TrackingStep s (s.setRequest i o) :=
  inWatching (fun _ => watching) rfl fun c => c.setRequest i o

theorem launch {s : State} (watching : s.mode = .watching) (i : SlotIndex) (o : ProbeOrigin)
    (idle : s.engine.inFlight = none) (eligible : (s.slot i).eligible o = true)
    (room : s.table.length < Config.tableCapacity) : TrackingStep s (s.launch i o) :=
  inWatching (fun _ => watching) rfl fun c =>
    c.launch i o idle (SlotRecord.eligible_watched eligible) room

theorem parkAccepting (s : State) (i : SlotIndex) (accepting : (s.slot i).state.unwatched = false) :
    TrackingStep s (s.parkAccepting i) := by
  unfold State.parkAccepting
  split
  · rename_i empty
    exact ofWatched accepting (SlotWork.enterParked s i .command).mode fun c =>
      c.enterParked i .command empty.1
  · exact ofWatched accepting (SlotWork.changeState s i .draining .command).mode fun c =>
      c.changeState i .draining .command rfl (by simp)

theorem parkFenced (s : State) (i : SlotIndex) (fenced : (s.slot i).state = .fenced)
    (noProbe : (s.slot i).probeEntry = false) : TrackingStep s (s.parkFenced i) := by
  have cleared : TrackingStep s (s.updSlot i fun r =>
      { r with manual := false, verdict := false, fencePending := false }) :=
    updFields s i _ (fun _ => ⟨rfl, rfl, rfl⟩) fun _ => rfl
  refine ofWatched (i := i) (by rw [fenced]; rfl) (SlotWork.trans ?_ (SlotWork.enterParked _ i .command)).mode
    fun c => State.TableConsistent.enterParked ?_ i .command ?_
  · exact SlotWork.updSlot s i _ fun _ => rfl
  · exact c.updSlot i _ (fun _ => ⟨rfl, rfl, rfl⟩) fun _ => rfl
  · rw [State.slot_updSlot_self]
    exact SlotRecord.noEntry_iff.mpr ⟨c.idle i (.inr fenced), noProbe⟩

theorem vacateEffect (s : State) (i : SlotIndex)
    (h : (s.slot i).state = .vacant ∨ (s.slot i).noEntry = true) : TrackingStep s (s.vacateEffect i) := by
  have twinless : TrackingStep s (s.dropTwinOf i) := by
    unfold State.dropTwinOf
    split
    · exact refl s
    · exact setFields s _ _ rfl rfl rfl fun _ => nofun
  have vacated : TrackingStep (s.dropTwinOf i) ((s.dropTwinOf i).updSlot i SlotRecord.vacated) := by
    obtain ⟨t, slot⟩ := s.slot_dropTwinOf i i
    refine setSlot _ i _ (fun _ => rfl) rfl rfl (fun f => ?_) fun _ => nofun
    rw [slot] at f ⊢
    obtain vacant | empty := h
    · have unwatched : ((s.slot i).setTwin t).state.unwatched = true := by
        show (s.slot i).state.unwatched = true
        rw [vacant]; rfl
      exact .empty (f.idle (.inl unwatched)) (f.unwatched unwatched)
    · exact .empty (SlotRecord.noEntry_iff.mp empty).1 (SlotRecord.noEntry_iff.mp empty).2
  unfold State.vacateEffect
  dsimp only
  split
  · exact twinless.trans vacated
  · exact (twinless.trans vacated).trans (queueAlert _ _)

end TrackingStep

/-! ### The rules of the commands -/

/-- The answer of a command's rule in `s` leaves a state that a tracking step reaches. -/
def CommandResult.Tracks (s : State) : CommandResult → Prop
  | .done t _ => TrackingStep s t
  | .answer t _ => TrackingStep s t
  | .refuse _ => True

namespace CommandResult.Tracks

variable (s : State) (i : SlotIndex) (c : CommandCopy)

theorem enumerate : (enumerateRule s c).Tracks s := TrackingStep.setChain s _

theorem identify : (identifyRule s c).Tracks s := TrackingStep.same rfl

theorem setGroups : (setGroupsRule s c).Tracks s := by
  unfold setGroupsRule
  split
  · exact TrackingStep.same rfl
  · trivial

theorem setRange : (setRangeRule s c).Tracks s := by
  unfold setRangeRule
  split
  · trivial
  · split
    · trivial
    · exact TrackingStep.same rfl

theorem claim : (claimRule s c).Tracks s := TrackingStep.claimEffect s

theorem release : (releaseRule s c).Tracks s := by
  unfold releaseRule
  split
  · split
    · trivial
    · exact TrackingStep.releaseEffect s
  · exact TrackingStep.refl s

theorem reset : (resetRule s c).Tracks s := TrackingStep.softReset s

theorem store : (storeRule s c).Tracks s := by
  unfold storeRule
  split
  · trivial
  · exact TrackingStep.same rfl

theorem setTiming : (setTimingRule s c).Tracks s := by
  unfold setTimingRule
  split
  · trivial
  · split
    · trivial
    · exact TrackingStep.same rfl

theorem writeProfile : (writeProfileRule s c).Tracks s := by
  unfold writeProfileRule
  split
  · exact TrackingStep.same rfl
  · trivial

theorem readProfile : (readProfileRule s c).Tracks s := by
  unfold readProfileRule
  split
  · exact TrackingStep.refl s
  · trivial

theorem writePolicy : (writePolicyRule s c).Tracks s := by
  unfold writePolicyRule
  split
  · exact TrackingStep.same rfl
  · trivial

theorem readPolicy : (readPolicyRule s c).Tracks s := by
  unfold readPolicyRule
  split
  · exact TrackingStep.refl s
  · trivial

theorem commit : (commitRule s c).Tracks s := TrackingStep.same rfl

theorem snapshot : (snapshotRule s c).Tracks s := TrackingStep.same rfl

theorem censusQuery : (censusQueryRule s c).Tracks s := TrackingStep.refl s

theorem probeResult : (probeResultRule s c).Tracks s := by
  unfold probeResultRule
  exact TrackingStep.same rfl

/-- A slot command, whatever its slot address. -/
theorem slot {rule : State → SlotIndex → CommandCopy → CommandResult}
    (h : ∀ s i c, (rule s i c).Tracks s) : (slotRule rule s c).Tracks s := by
  unfold slotRule
  split
  · trivial
  · exact h s _ c

theorem admitSlot : (admitRule s i c).Tracks s := by
  unfold admitRule
  split
  · trivial
  · rename_i watching
    split
    · trivial
    · exact TrackingStep.inWatching (fun _ => not_not.mp watching)
        (SlotWork.enterProbation s i .command).mode fun h => h.enterProbation i .command

theorem park : (parkRule s i c).Tracks s := by
  unfold parkRule
  split
  case h_1 => trivial
  case h_2 => exact TrackingStep.refl s
  case h_3 => exact TrackingStep.refl s
  case h_7 fenced =>
    split
    · trivial
    · rename_i noProbe
      exact TrackingStep.parkFenced s i fenced (by simpa using noProbe)
  all_goals exact TrackingStep.parkAccepting s i (by simp only [*]; rfl)

theorem fence : (fenceRule s i c).Tracks s := by
  unfold fenceRule
  split
  · trivial
  · rename_i watched
    exact TrackingStep.ofWatched (i := i) (by simpa using watched) (SlotWork.setManual s i).mode
      fun h => h.setManual i

theorem unfence : (unfenceRule s i c).Tracks s := by
  have cleared : TrackingStep s (s.updSlot i SlotRecord.clearFence) :=
    TrackingStep.updFields s i _ (fun _ => ⟨rfl, rfl, rfl⟩) fun _ => rfl
  unfold unfenceRule
  split
  case h_1 fenced =>
    exact TrackingStep.ofWatched (i := i) (by rw [fenced]; rfl)
      (SlotWork.enterProbation s i .command).mode fun h => h.enterProbation i .command
  case h_5 draining =>
    split
    · refine cleared.trans (TrackingStep.ofWatched (i := i) ?_ (SlotWork.settleDrain _ i).mode
        fun h => h.settleDrain i)
      rw [State.slot_updSlot_self, SlotRecord.clearFence, draining]
      rfl
    · trivial
  case h_6 => trivial
  case h_7 => trivial
  all_goals
    split
    · exact cleared
    · trivial

theorem vacate : (vacateRule s i c).Tracks s := by
  have occupied : CommandResult.Tracks s
      (if (s.slot i).noEntry then .done (s.vacateEffect i) [] else .refuse .busy) := by
    split
    · rename_i empty
      exact TrackingStep.vacateEffect s i (.inr empty)
    · trivial
  unfold vacateRule
  split
  case h_5 => exact occupied
  case h_6 => exact occupied
  case h_7 vacant => exact TrackingStep.vacateEffect s i (.inl vacant)
  all_goals trivial

theorem pair : (pairRule s i c).Tracks s := by
  unfold pairRule
  split
  · trivial
  · rename_i j _
    split
    · trivial
    · rename_i other
      split
      · trivial
      · split
        · trivial
        · have first : TrackingStep s (s.updSlot i fun r => (r.setTwin (some j)).markConfigured) :=
            TrackingStep.setFields s i _ rfl rfl rfl fun _ h => other (Option.some.inj h).symm
          exact first.trans
            (TrackingStep.setFields _ j _ rfl rfl rfl fun _ h => other (Option.some.inj h))

theorem unpair : (unpairRule s i c).Tracks s := by
  unfold unpairRule
  split
  · trivial
  · split
    · trivial
    · have first : TrackingStep s (s.updSlot i fun r => r.setTwin none) :=
        TrackingStep.setFields s i _ rfl rfl rfl fun _ => nofun
      exact first.trans (TrackingStep.setFields _ _ _ rfl rfl rfl fun _ => nofun)

theorem configure : (configureRule s i c).Tracks s := by
  unfold configureRule
  split
  · trivial
  · rename_i cfg parsed
    exact TrackingStep.setFields s i _ rfl rfl rfl (State.parseConfig_twin parsed).trans_ne

theorem slotStatus : (slotStatusRule s i c).Tracks s := by
  unfold slotStatusRule
  exact TrackingStep.updFields s i _ (fun _ => ⟨rfl, rfl, rfl⟩) fun _ => rfl

theorem readSample : (readSampleRule s i c).Tracks s := by
  unfold readSampleRule
  dsimp only
  split
  · exact TrackingStep.refl s
  · exact TrackingStep.updFields s i _ (fun _ => ⟨rfl, rfl, rfl⟩) fun _ => rfl

theorem readSnapshot : (readSnapshotRule s i c).Tracks s := TrackingStep.refl s

theorem probe : (probeRule s i c).Tracks s := by
  unfold probeRule
  split
  · trivial
  · rename_i watching
    split
    · trivial
    · rename_i eligible
      split
      · trivial
      · rename_i idle
        unfold State.commandProbe
        split
        · rename_i room
          exact TrackingStep.launch (not_not.mp watching) i .command
            (by simpa [ProbeEngine.idle] using idle) (by simpa using eligible)
            (State.tableHasRoom_iff.mp room)
        · exact TrackingStep.setRequest (not_not.mp watching) i _

end CommandResult.Tracks

/-! ### Management commands (R181, R182) -/

namespace TrackingStep

theorem clearCommand (s : State) : TrackingStep s s.clearCommand := same rfl

theorem placeReply (s : State) (f : Frame) : TrackingStep s (s.placeReply f) := same rfl

theorem refuseCopy (s : State) (c : CommandCopy) (r : ResultCode) :
    TrackingStep s (s.refuseCopy c r) := by
  unfold State.refuseCopy
  split <;> exact same rfl

theorem concludeCopy (s : State) (c : CommandCopy) {r : CommandResult} (h : r.Tracks s) :
    TrackingStep s (s.concludeCopy c r) := by
  have ended : ∀ (t : State) (f : Frame), TrackingStep s t →
      TrackingStep s (if s.needsReply c then t.placeReply f else t).clearCommand := fun t f h => by
    split
    · exact (h.trans (placeReply t f)).trans (clearCommand _)
    · exact h.trans (clearCommand t)
  cases r with
  | refuse r => exact refuseCopy s c r
  | done t results => exact ended t _ h
  | answer t f => exact ended t f h

theorem runCommand (s : State) (k : CommandForm) {effect : State → CommandCopy → CommandResult}
    (h : ∀ c, (effect s c).Tracks s) : TrackingStep s (s.runCommand k effect) := by
  unfold State.runCommand
  split
  · exact refl s
  · rename_i c _
    split
    · unfold State.executeCopy
      split
      · exact refuseCopy s c .state
      · split
        · exact refuseCopy s c .range
        · exact concludeCopy s c (h c)
    · exact refl s

end TrackingStep

/-! ### Every command and every step -/

/-- A command ends in a next state that a tracking step reaches from `s`. -/
def Result.Tracks (s : State) (r : Result) : Prop := ∃ t, r = .next t ∧ TrackingStep s t

theorem TrackingStep.result {s t : State} (h : TrackingStep s t) : Result.Tracks s (.next t) :=
  ⟨t, rfl, h⟩

namespace Result.Tracks

variable (s : State)

theorem lineReset (lines : ResetLines) : Result.Tracks s (execLineReset lines s) := by
  refine TrackingStep.result ?_
  split
  · exact TrackingStep.refl s
  · split
    · exact TrackingStep.hardReset s .line lines
    · exact TrackingStep.same rfl

theorem storeLoadComplete (inputs : LoadInputs) : Result.Tracks s (execStoreLoadComplete inputs s) := by
  refine TrackingStep.result ?_
  split
  · rename_i begun
    exact TrackingStep.finishLoad begun.1 inputs
  · exact TrackingStep.refl s

theorem claimTimeout : Result.Tracks s (execClaimTimeout s) := by
  refine TrackingStep.result ?_
  split
  · rename_i due
    have unclaimed : s.mode = .unclaimed := by
      simp only [State.claimDue, Bool.and_eq_true, decide_eq_true_eq] at due
      exact due.1
    exact (TrackingStep.same (s := s) (t := s.setClaimTimer none) rfl).trans
      (TrackingStep.changeMode _ .transparent (.inl (show s.mode ≠ _ by simp [unclaimed])))
  · exact TrackingStep.refl s

theorem frameComplete (port : Port) (bytes : List Byte) :
    Result.Tracks s (execFrameComplete port bytes s) := by
  refine TrackingStep.result (TrackingStep.frameEnds port ?_)
  split
  · exact TrackingStep.countBad s port
  · split
    · exact TrackingStep.setStage s _ port
    · exact TrackingStep.countBad s port

theorem takeUpFrame : Result.Tracks s (execTakeUpFrame s) := by
  refine TrackingStep.result ?_
  split
  · exact TrackingStep.refl s
  · split
    · exact TrackingStep.classifyUp s _
    · exact TrackingStep.refl s

theorem takeDownFrame (removed judged : Bool) :
    Result.Tracks s (execTakeDownFrame removed judged s) := by
  refine TrackingStep.result ?_
  split
  · exact TrackingStep.refl s
  · split
    · exact TrackingStep.classifyDown s _ removed judged
    · exact TrackingStep.refl s

theorem upTransmitBegin : Result.Tracks s (execUpTransmitBegin s) := by
  refine TrackingStep.result ?_
  split
  · exact TrackingStep.refl s
  · split
    · exact TrackingStep.sendInserted s
    · split
      · exact TrackingStep.sendInserted s
      · exact TrackingStep.sendThroughUp s

theorem downTransmitBegin : Result.Tracks s (execDownTransmitBegin s) := by
  refine TrackingStep.result ?_
  split
  · exact TrackingStep.refl s
  · split
    · exact TrackingStep.sendProbe s
    · split
      · exact TrackingStep.sendProbe s
      · exact TrackingStep.sendThroughDown s

theorem entryDeadline (slot : SlotIndex) (tag : Tag) :
    Result.Tracks s (execEntryDeadline slot tag s) := by
  refine TrackingStep.result ?_
  split
  · exact TrackingStep.refl s
  · rename_i e found
    split
    · rename_i due
      exact TrackingStep.deadline s (State.findEntry_some found).1 (Entry.deadlineDue_iff.mp due).1
    · exact TrackingStep.refl s

theorem entryLoss (slot : SlotIndex) (tag : Tag) : Result.Tracks s (execEntryLoss slot tag s) := by
  refine TrackingStep.result ?_
  split
  · exact TrackingStep.refl s
  · rename_i e found
    split
    · have mem := (State.findEntry_some found).1
      exact TrackingStep.ofEntry mem (SlotWork.loseEntry s e).mode fun c => c.loseEntry mem
    · exact TrackingStep.refl s

theorem twinWindowExpiry (slot : SlotIndex) (tag : Tag) :
    Result.Tracks s (execTwinWindowExpiry slot tag s) := by
  refine TrackingStep.result ?_
  split
  · exact TrackingStep.refl s
  · rename_i e found
    split
    · have mem := (State.findEntry_some found).1
      exact TrackingStep.ofEntry mem (SlotWork.expireTwin s e).mode fun c => c.expireTwin mem
    · exact TrackingStep.refl s

theorem probeDeadline : Result.Tracks s (execProbeDeadline s) := by
  refine TrackingStep.result ?_
  split
  · exact TrackingStep.refl s
  · rename_i p flies
    split
    · exact TrackingStep.refl s
    · split
      · exact TrackingStep.endProbe s flies .noAnswer none
      · exact TrackingStep.refl s

theorem naturalBoundary (turns : List SlotIndex) :
    Result.Tracks s (execNaturalBoundary turns s) := by
  refine TrackingStep.result ?_
  split
  · exact TrackingStep.boundary s turns
  · exact TrackingStep.refl s

theorem markEdge (level : Bool) (orders : EdgeOrders) :
    Result.Tracks s (execMarkEdge level orders s) := by
  refine TrackingStep.result ?_
  split
  · exact TrackingStep.refl s
  · exact TrackingStep.takeMark s level orders

theorem probeService : Result.Tracks s (execProbeService s) := by
  refine TrackingStep.result ?_
  split
  · rename_i due
    simp only [State.serviceDue, Bool.and_eq_true, decide_eq_true_eq, ProbeEngine.idle,
      Option.isNone_iff_eq_none, State.tableHasRoom_iff] at due
    obtain ⟨⟨⟨idle, watching⟩, _⟩, room⟩ := due
    exact TrackingStep.inWatching (fun _ => watching) (State.serviceScan_mode _ s) fun c =>
      c.serviceScan _ idle room
  · exact TrackingStep.refl s

theorem storeWriteComplete (equal : Bool) : Result.Tracks s (execStoreWriteComplete equal s) := by
  refine TrackingStep.result ?_
  split
  · exact TrackingStep.refl s
  · exact TrackingStep.same rfl

theorem partnerHoldChange (port : Port) (asserted : Bool) :
    Result.Tracks s (execPartnerHoldChange port asserted s) := by
  refine TrackingStep.result ?_
  cases port <;> exact TrackingStep.same rfl

theorem transmitEnd (port : Port) : Result.Tracks s (execTransmitEnd port s) := by
  refine TrackingStep.result ?_
  cases port <;> exact TrackingStep.same rfl

theorem unknown : Result.Tracks s (execUnknown s) := by
  refine TrackingStep.result ?_
  split
  · exact TrackingStep.refl s
  · split
    · exact TrackingStep.refuseCopy s _ .unknown
    · exact TrackingStep.refl s

/-- A management command whose rule is a tracking step. -/
theorem command (k : CommandForm) {effect : State → CommandCopy → CommandResult}
    (h : ∀ c, (effect s c).Tracks s) : Result.Tracks s (.next (s.runCommand k effect)) :=
  (TrackingStep.runCommand s k h).result

/-- A management command that carries a slot address, whose rule is a tracking step. -/
theorem slotCommand (k : CommandForm) {rule : State → SlotIndex → CommandCopy → CommandResult}
    (h : ∀ s i c, (rule s i c).Tracks s) :
    Result.Tracks s (.next (s.runCommand k (slotRule rule))) :=
  command s k fun c => CommandResult.Tracks.slot s c h

end Result.Tracks

/-- Every command answers a next state that a tracking step reaches. -/
theorem exec_tracks (s : State) : ∀ c : Instr, Result.Tracks s (exec c s)
  | .powerOnReset lines => (TrackingStep.hardReset s .power lines).result
  | .lineReset lines => .lineReset s lines
  | .storeLoadComplete inputs => .storeLoadComplete s inputs
  | .claimTimeout => .claimTimeout s
  | .frameComplete port bytes => .frameComplete s port bytes
  | .frameOverrun port => (TrackingStep.frameEnds port (TrackingStep.countBad s port)).result
  | .takeUpFrame => .takeUpFrame s
  | .takeDownFrame removed judged => .takeDownFrame s removed judged
  | .upTransmitBegin => .upTransmitBegin s
  | .downTransmitBegin => .downTransmitBegin s
  | .tick => (TrackingStep.takeTick s).result
  | .entryDeadline slot tag => .entryDeadline s slot tag
  | .entryLoss slot tag => .entryLoss s slot tag
  | .twinWindowExpiry slot tag => .twinWindowExpiry s slot tag
  | .probeDeadline => .probeDeadline s
  | .naturalBoundary turns => .naturalBoundary s turns
  | .markEdge level orders => .markEdge s level orders
  | .probeService => .probeService s
  | .storeWriteComplete equal => .storeWriteComplete s equal
  | .enumerate => .command s _ (.enumerate s)
  | .identify => .command s _ (.identify s)
  | .claim => .command s _ (.claim s)
  | .release => .command s _ (.release s)
  | .reset => .command s _ (.reset s)
  | .setRange => .command s _ (.setRange s)
  | .setGroups => .command s _ (.setGroups s)
  | .setTiming => .command s _ (.setTiming s)
  | .writeProfile => .command s _ (.writeProfile s)
  | .readProfile => .command s _ (.readProfile s)
  | .writePolicy => .command s _ (.writePolicy s)
  | .readPolicy => .command s _ (.readPolicy s)
  | .commit => .command s _ (.commit s)
  | .admitSlot => .slotCommand s _ .admitSlot
  | .park => .slotCommand s _ .park
  | .fence => .slotCommand s _ .fence
  | .unfence => .slotCommand s _ .unfence
  | .vacate => .slotCommand s _ .vacate
  | .pair => .slotCommand s _ .pair
  | .unpair => .slotCommand s _ .unpair
  | .configureSlot => .slotCommand s _ .configure
  | .slotStatus => .slotCommand s _ .slotStatus
  | .readSample => .slotCommand s _ .readSample
  | .snapshot => .command s _ (.snapshot s)
  | .readSnapshot => .slotCommand s _ .readSnapshot
  | .probe => .slotCommand s _ .probe
  | .probeResult => .command s _ (.probeResult s)
  | .store => .command s _ (.store s)
  | .censusQuery => .command s _ (.censusQuery s)
  | .unknown => .unknown s
  | .partnerHoldChange port asserted => .partnerHoldChange s port asserted
  | .transmitEnd port => .transmitEnd s port

/-- A step is a tracking step: the queue of commands is no part of what the invariants read. -/
theorem step_tracks {s t : State} (h : step s = .next t) : TrackingStep s t := by
  unfold step at h
  split at h
  · obtain rfl := Host.Outcome.next.inj h
    exact TrackingStep.refclkPeriod s
  · rename_i c rest _
    obtain ⟨u, run, tracks⟩ := exec_tracks { s with pending := rest } c
    obtain rfl := Host.Outcome.next.inj (h.symm.trans run)
    exact (TrackingStep.same (s := s) (t := { s with pending := rest }) rfl).trans tracks

/-- Settles O59: every step is a tracking step. -/
theorem everyStepKeepsTheQuietOutsideWatching : Obligations.EveryStepKeepsTheQuietOutsideWatching :=
  fun _ _ quiet stepped => (step_tracks stepped).quiet quiet

/-- Settles O60: every step is a tracking step. -/
theorem everyStepKeepsTheTableConsistent : Obligations.EveryStepKeepsTheTableConsistent :=
  fun _ _ quiet consistent stepped => (step_tracks stepped).consistent quiet consistent

end Sys2Proof.Machine

namespace Sys2Proof.Machine

/-! ### The age order of a slot (R36) -/

theorem State.ageOrder_eq (s : State) (i : SlotIndex) :
    s.ageOrder i = s.table.filter fun e => decide (e.slot = i ∧ e.kind = .request) := by
  unfold State.ageOrder
  simp only [Bool.decide_and]

/-- A new REQUEST entry of the slot joins at the tail (R36, R37). -/
theorem State.ageOrder_addEntry (s : State) (e : Entry) (i : SlotIndex) :
    (s.addEntry e).ageOrder i =
      if e.slot = i ∧ e.kind = .request then s.ageOrder i ++ [e] else s.ageOrder i := by
  rw [State.ageOrder_eq, State.addEntry_table, List.filter_append, ← State.ageOrder_eq]
  split
  · rename_i joins
    simp [joins]
  · rename_i other
    simp [other]

theorem State.oldestAge_nil {s : State} {i : SlotIndex} (h : s.ageOrder i = []) : s.oldestAge i = 0 := by
  unfold State.oldestAge
  rw [h]
  rfl

theorem State.oldestAge_cons {s : State} {i : SlotIndex} {e : Entry} {rest : List Entry}
    (h : s.ageOrder i = e :: rest) : s.oldestAge i = tickAge16 s.time.tick e.arrival := by
  unfold State.oldestAge
  rw [h]
  rfl

/-- Settles O30: the order of the table, a new entry at its end, and the age of the head. -/
theorem ageOrderAndOldestAge : Obligations.AgeOrderAndOldestAge := fun s i =>
  ⟨s.ageOrder_eq i, fun e => s.ageOrder_addEntry e i, State.oldestAge_nil,
    fun _ _ => State.oldestAge_cons⟩

/-! ### The reset state (R114, R197) -/

theorem State.slot_reset (i : SlotIndex) : State.reset.slot i = SlotRecord.loaded SlotConfig.default := by
  simp [State.slot, State.reset]

theorem State.request?_reset (i : SlotIndex) : State.reset.request? i = none := by
  simp [State.request?, State.reset, ProbeEngine.afterReset]

/-- Settles O57: at reset every list is empty and every record is the default one. -/
theorem invariantsHoldAtReset : Obligations.InvariantsHoldAtReset := by
  refine ⟨?_, .of_idle rfl (fun _ i => ?_) rfl State.request?_reset,
    .of_empty rfl (fun i => ?_) (fun i => ?_) fun i => ?_⟩
  · exact
      { desc := Nat.zero_le _
        asc := Nat.zero_le _
        outbox := Nat.zero_le _
        bounce := Nat.zero_le _
        reply := Nat.zero_le _
        table := Nat.zero_le _
        latency := fun i => by rw [State.slot_reset]; exact Nat.zero_le _
        lostTags := fun i => by rw [State.slot_reset]; exact Nat.zero_le _ }
  · rw [State.slot_reset]
    exact SlotRecord.loaded_unwatched _
  · rw [State.slot_reset]; rfl
  · rw [State.slot_reset]; rfl
  · rw [State.slot_reset]
    nofun

/-! ### The removal of an entry (R61) -/

/-- A slot whose drain has not come to its end stays as it is (R95). -/
theorem State.settleDrain_stands {s : State} {i : SlotIndex}
    (h : ¬ ((s.slot i).state = .draining ∧ (s.slot i).requestCount = 0 ∧ (s.slot i).probeEntry = false ∧
      (s.slot i).fencePending = false)) : s.settleDrain i = s := by
  refine if_neg ?_
  rintro ⟨draining, empty, released⟩
  obtain ⟨count, flag⟩ := SlotRecord.noEntry_iff.mp empty
  exact h ⟨draining, count, flag, released⟩

/-- A DRAINING slot left with no entry and no pending fence is PARKED (R95). -/
theorem State.settleDrain_parks {s : State} {i : SlotIndex}
    (h : (s.slot i).state = .draining ∧ (s.slot i).requestCount = 0 ∧ (s.slot i).probeEntry = false ∧
      (s.slot i).fencePending = false) :
    s.settleDrain i = (s.setSlot i (s.slot i).toParked).queueAlert
      (.slotState (s.slotAddr i) .draining .parked .drained) := by
  obtain ⟨draining, count, flag, released⟩ := h
  unfold State.settleDrain
  rw [if_pos ⟨draining, SlotRecord.noEntry_iff.mpr ⟨count, flag⟩, released⟩]
  unfold State.enterParked
  rw [draining]
  rfl

/-- A removal: the entry leaves the table, its slot's record drops it, and the drain may end (R61). -/
theorem State.removeEntry_eq (s : State) (e : Entry) : s.removeEntry e =
    (State.setSlot { s with table := s.table.filter fun x => !decide (x.key = e.key) } e.slot
      ((s.slot e.slot).dropEntry e.kind)).settleDrain e.slot := rfl

/-- Settles O19: the record after the removal decides whether the drain ends. -/
theorem removalOfAnEntry : Obligations.RemovalOfAnEntry := by
  intro s e l r drained
  have dropped : (s.slot e.slot).dropEntry e.kind = r := by
    unfold SlotRecord.dropEntry
    rfl
  rw [State.removeEntry_eq, dropped]
  have slot : (State.setSlot { s with table := l } e.slot r).slot e.slot = r :=
    State.slot_setSlot_self _ _ r
  refine ⟨fun stands => ?_, fun ends => ?_⟩
  · rw [State.settleDrain_stands (by rw [slot]; exact stands)]
    rfl
  · rw [State.settleDrain_parks (by rw [slot]; exact ends), slot, State.setSlot_setSlot]
    rfl

/-! ### Launch and cancellation of a probe (R147, R154, R156) -/

/-- What a launch leaves (R147). -/
theorem State.launch_eq (s : State) (i : SlotIndex) (o : ProbeOrigin) : s.launch i o =
    { s with
      table := s.table ++ [probeEntry s i (s.launchTag i)]
      slots := s.slots.set i { s.slot i with probeEntry := true }
      engine := { s.engine with
        seq := s.launchSeq i + 1
        inFlight := some ⟨i, s.slotAddr i, s.launchTag i, o, s.time.tick⟩
        requests := s.engine.requests.set i none
        pointer := i
        pendingFrame := some
          (mkFrame 1 s.engine.cls (BitVec.ofNat 8 (s.slotAddr i)) (s.launchTag i) []) } } := rfl

/-- Settles O35: the launch takes the first free sequence number; the cancellation is the end of a probe
without an action. -/
theorem launchAndCancelOfAProbe : Obligations.LaunchAndCancelOfAProbe := by
  refine ⟨fun s i o room => ?_, fun s => ⟨State.cancelProbe_idle, fun p e flies found => ?_⟩⟩
  · obtain ⟨k, number, taken, free⟩ := s.launchSeq_spec i room
    intro tagOf
    have tag : s.launchTag i = tagOf (s.engine.seq + BitVec.ofNat 12 k) := by
      rw [← number]
      rfl
    refine ⟨k, taken, ?_, ?_⟩
    · rw [← tag]
      exact free
    · intro deadline addr
      rw [State.launch_eq, tag, number]
      rfl
  · unfold State.cancelProbe
    rw [flies]
    show (s.closeProbe p .cancelled none).probeOutcome p .cancelled = _
    rw [State.closeProbe_found found, State.goIdle_removeEntry]
    rfl

end Sys2Proof.Machine

namespace Sys2Proof.Machine

/-! ### Work of which the report unit knows the alerts alone (R162, R163) -/

/-- From `s` to `t` nothing of the report unit changed but what alerts change: the outbox and the lost
count. -/
def State.AlertsOnly (s t : State) : Prop :=
  t.report = { s.report with outbox := t.report.outbox, lostCount := t.report.lostCount }

namespace State.AlertsOnly

theorem of_report {s t : State} (h : t.report = s.report) : s.AlertsOnly t := by
  unfold State.AlertsOnly
  rw [h]

theorem refl (s : State) : s.AlertsOnly s := of_report rfl

theorem trans {s t u : State} (a : s.AlertsOnly t) (b : t.AlertsOnly u) : s.AlertsOnly u := by
  unfold State.AlertsOnly at a b ⊢
  rw [b, a]

theorem foldl {α : Type} (f : State → α → State) (h : ∀ s a, State.AlertsOnly s (f s a)) (l : List α)
    (s : State) : s.AlertsOnly (l.foldl f s) := by
  induction l generalizing s with
  | nil => exact refl s
  | cons a l ih => exact (h s a).trans (ih _)

theorem queueAlert (s : State) (r : AlertRecord) : s.AlertsOnly (s.queueAlert r) := s.queueAlert_report r

theorem settleDrain (s : State) (i : SlotIndex) : s.AlertsOnly (s.settleDrain i) := by
  unfold State.settleDrain
  split
  · exact queueAlert (s.updSlot i SlotRecord.toParked) _
  · exact refl s

theorem removeEntry (s : State) (e : Entry) : s.AlertsOnly (s.removeEntry e) := by
  rw [State.removeEntry_eq]
  refine State.AlertsOnly.trans ?_ (settleDrain _ _)
  exact of_report rfl

theorem releasePartner (s : State) (e : Entry) : s.AlertsOnly (s.releasePartner e) := by
  unfold State.releasePartner
  split
  · exact refl s
  · split
    · exact refl s
    · split
      · exact removeEntry s _
      · exact of_report rfl

theorem orphanSlot (s : State) (i : SlotIndex) : s.AlertsOnly (s.orphanSlot i) :=
  foldl _ (fun s e => (releasePartner s e).trans (removeEntry _ e)) _ s

theorem releaseSlot (s : State) (i : SlotIndex) : s.AlertsOnly (s.releaseSlot i) := by
  unfold State.releaseSlot
  split
  · exact queueAlert (s.updSlot i SlotRecord.toReleased) _
  · exact refl s

end State.AlertsOnly

/-! ### Entry into FENCED, its alerts apart (R139) -/

/-- What entry into FENCED leaves before its two alerts: the slot FENCED, its entries orphaned, its
windows-since-probe 0 (R139). -/
def State.orphaned (s : State) (i : SlotIndex) : State :=
  ((s.fencing i).orphanSlot i).updSlot i fun r => { r with sinceProbe := 0 }

theorem State.orphaned_work (s : State) (i : SlotIndex) : SlotWork s (s.orphaned i) := by
  have fencing : SlotWork s (s.fencing i) := SlotWork.updSlot s i _ fun _ => rfl
  exact (fencing.trans (SlotWork.orphanSlot _ i)).trans (SlotWork.updSlot _ i _ fun _ => rfl)

theorem State.orphaned_alertsOnly (s : State) (i : SlotIndex) : s.AlertsOnly (s.orphaned i) :=
  ((State.AlertsOnly.of_report rfl).trans (State.AlertsOnly.orphanSlot (s.fencing i) i)).trans
    (.of_report rfl)

theorem State.orphaned_outbox (s : State) (i : SlotIndex) :
    s.report.outbox <+: (s.orphaned i).report.outbox :=
  State.outbox_orphans _ (s.fencing i)

/-- A slot without REQUEST entries has none to orphan. -/
theorem State.orphaned_report {s : State} {i : SlotIndex} (alone : s.ageOrder i = []) :
    (s.orphaned i).report = s.report := by
  show ((s.fencing i).orphanSlot i).report = s.report
  unfold State.orphanSlot
  rw [show (s.fencing i).ageOrder i = [] from alone]
  rfl

theorem State.orphaned_chain (s : State) (i : SlotIndex) : (s.orphaned i).mgmt.chain = s.mgmt.chain := by
  rw [(s.orphaned_work i).mgmt]

/-! ### The two alerts of entry into FENCED (R139) -/

theorem State.slotAddr_queueAlert (s : State) (r : AlertRecord) (i : SlotIndex) :
    (s.queueAlert r).slotAddr i = s.slotAddr i := by
  unfold State.slotAddr
  rw [State.queueAlert_watchBase]

/-- The SLOT_STATE alert of entry into FENCED (R139). -/
def State.fencedAlert (s : State) (i : SlotIndex) : AlertRecord :=
  .slotState (s.slotAddr i) (s.slot i).state .fenced
    (if (s.slot i).verdict = true then .verdict else .command)

/-- Entry into FENCED: the ORPHAN alert where entries were orphaned, then SLOT_STATE (R139). -/
theorem State.enterFenced_eq (s : State) (i : SlotIndex) : s.enterFenced i =
    (if (s.ageOrder i).length = 0 then s.orphaned i
      else (s.orphaned i).queueAlert (.orphan (s.slotAddr i) (s.ageOrder i).length)).queueAlert
      (s.fencedAlert i) := by
  have addr : (s.orphaned i).slotAddr i = s.slotAddr i := by
    unfold State.slotAddr
    rw [(s.orphaned_work i).mgmt]
  have unfolded : s.enterFenced i =
      let u := if (s.ageOrder i).length = 0 then s.orphaned i
        else (s.orphaned i).queueAlert (.orphan ((s.orphaned i).slotAddr i) (s.ageOrder i).length)
      u.queueAlert (.slotState (u.slotAddr i) (s.slot i).state .fenced
        (if (s.slot i).verdict then .verdict else .command)) := rfl
  rw [unfolded]
  unfold State.fencedAlert
  dsimp only
  split
  · rw [addr]
  · rw [State.slotAddr_queueAlert, addr]

theorem State.enterFenced_alertsOnly (s : State) (i : SlotIndex) : s.AlertsOnly (s.enterFenced i) := by
  rw [State.enterFenced_eq]
  refine State.AlertsOnly.trans ?_ (.queueAlert _ _)
  split
  · exact s.orphaned_alertsOnly i
  · exact (s.orphaned_alertsOnly i).trans (.queueAlert _ _)

/-- An outbox with room after an alert had room before it. -/
theorem State.room_of_queueAlert {s : State} {r : AlertRecord}
    (room : (s.queueAlert r).report.outbox.length < 32) : s.report.outbox.length < 32 := by
  by_contra full
  rw [State.queueAlert_full s r full] at room
  exact full room

theorem State.queueAlert_outbox {s : State} {r : AlertRecord} (room : s.report.outbox.length < 32) :
    (s.queueAlert r).report.outbox = s.report.outbox ++ [⟨r, s.mgmt.chain⟩] := by
  rw [State.queueAlert_room s r room]

/-- Without entries to orphan, SLOT_STATE is the only alert. -/
theorem State.enterFenced_outbox_alone {s : State} {i : SlotIndex} (alone : (s.ageOrder i).length = 0)
    (room : s.report.outbox.length < 32) :
    (s.enterFenced i).report.outbox = s.report.outbox ++ [⟨s.fencedAlert i, s.mgmt.chain⟩] := by
  have report := State.orphaned_report (List.length_eq_zero_iff.mp alone)
  rw [State.enterFenced_eq, if_pos alone, State.queueAlert_outbox (by rwa [report]), report,
    State.orphaned_chain]

/-- ORPHAN and SLOT_STATE are the last two alerts, where they found room. -/
theorem State.enterFenced_outbox {s : State} {i : SlotIndex} (orphans : (s.ageOrder i).length ≠ 0)
    (room : (s.enterFenced i).report.outbox.length < 32) :
    (s.enterFenced i).report.outbox = (s.orphaned i).report.outbox ++
      [⟨.orphan (s.slotAddr i) (s.ageOrder i).length, s.mgmt.chain⟩, ⟨s.fencedAlert i, s.mgmt.chain⟩] := by
  rw [State.enterFenced_eq, if_neg orphans] at room ⊢
  have first := State.room_of_queueAlert room
  rw [State.queueAlert_outbox first, State.queueAlert_outbox (State.room_of_queueAlert first),
    State.queueAlert_chain, State.orphaned_chain, List.append_assoc]
  rfl

/-! ### The entries at entry into FENCED (R63, R83, R139) -/

theorem Entry.unpair_eq {e : Entry} (partner : e.partner = none) (window : e.pairWindow = none) :
    e.unpair = e := by
  cases e
  simp_all [Entry.unpair]

section EnterFenced

variable {s : State} {i : SlotIndex} (c : s.TableConsistent)

include c

/-- A FENCED slot keeps no REQUEST entry (R63). -/
theorem State.TableConsistent.ageOrder_enterFenced : (s.enterFenced i).ageOrder i = [] := by
  obtain ⟨_, _, _, none, _⟩ := c.orphanSlot i
  unfold State.ageOrder at none ⊢
  rwa [State.enterFenced_table]

/-- An entry that is no partner of an orphaned one stays, if it is a PROBE entry or another slot's. -/
theorem State.TableConsistent.mem_enterFenced {e : Entry} (he : e ∈ s.table)
    (spared : e.slot ≠ i ∨ e.kind = .probe) (alone : ∀ x ∈ s.ageOrder i, x.partner ≠ some e.key) :
    e ∈ (s.enterFenced i).table := by
  obtain ⟨_, _, _, _, entries⟩ := c.orphanSlot i
  rw [State.enterFenced_table]
  exact (entries e he spared).1 alone

/-- A partner that is not HELD stays unpaired (R83). -/
theorem State.TableConsistent.unpair_mem_enterFenced {e : Entry} (he : e ∈ s.table)
    (spared : e.slot ≠ i ∨ e.kind = .probe) (waits : e.state ≠ .held)
    (paired : ∃ x ∈ s.ageOrder i, x.partner = some e.key) : e.unpair ∈ (s.enterFenced i).table := by
  obtain ⟨_, _, _, _, entries⟩ := c.orphanSlot i
  rw [State.enterFenced_table]
  exact ((entries e he spared).2 paired).2 waits

/-- A HELD partner goes (R83). -/
theorem State.TableConsistent.held_not_mem_enterFenced {e : Entry} (he : e ∈ s.table)
    (other : e.slot ≠ i) (held : e.state = .held)
    (paired : ∃ x ∈ s.ageOrder i, x.partner = some e.key) :
    ∀ x ∈ (s.enterFenced i).table, x.key ≠ e.key := by
  obtain ⟨_, _, _, _, entries⟩ := c.orphanSlot i
  rw [State.enterFenced_table]
  exact ((entries e he (.inl other)).2 paired).1 held

/-- A PROBE entry stays as it is: it is neither HELD nor paired. -/
theorem State.TableConsistent.probe_mem_enterFenced {e : Entry} (he : e ∈ s.table)
    (probe : e.kind = .probe) : e ∈ (s.enterFenced i).table := by
  obtain ⟨opened, partner, window, _⟩ := c.inFlight e he probe
  by_cases paired : ∃ x ∈ s.ageOrder i, x.partner = some e.key
  · have stays := c.unpair_mem_enterFenced he (.inr probe) (by simp [opened]) paired
    rwa [Entry.unpair_eq partner window] at stays
  · exact c.mem_enterFenced he (.inr probe) fun x hx h => paired ⟨x, hx, h⟩

end EnterFenced

/-- Settles O32: the blocks by what fence entry can touch, the records and entries by the orphaning, the
alerts by their order. -/
theorem entryIntoFenced : Obligations.EntryIntoFenced := by
  intro s i c r t count drained
  have work := SlotWork.enterFenced s i
  have drained_iff : ∀ j, drained j ↔ (s.slot j).Drains ∧ t.ageOrder j = [] ∧
      ∃ e ∈ s.table, e.slot = j ∧ e.kind = .request ∧ e.state = .held ∧
        ∃ x ∈ s.ageOrder i, x.partner = some e.key := fun j =>
    ⟨fun ⟨state, pending, flag, rest⟩ => ⟨⟨state, pending, flag⟩, rest⟩,
      fun ⟨⟨state, pending, flag⟩, rest⟩ => ⟨state, pending, flag, rest⟩⟩
  refine ⟨?_, fun j other => ?_, c.slot_enterFenced_self i, c.ageOrder_enterFenced,
    fun e he => c.probe_mem_enterFenced he, fun e he _ other => c.mem_enterFenced he (.inl other),
    fun e he _ other => c.unpair_mem_enterFenced he (.inl other),
    fun e he _ other => c.held_not_mem_enterFenced he other, State.enterFenced_outbox_alone,
    fun orphans room => ?_⟩
  · rw [← s.enterFenced_alertsOnly i, ← work.mgmt, ← work.trunk, ← work.time, ← work.policy, ← work.engine,
      ← work.store, ← work.pending]
  · rw [drained_iff]
    exact c.enterFenced_other other
  · obtain ⟨earlier, joined⟩ := s.orphaned_outbox i
    refine ⟨earlier, ?_⟩
    rw [joined]
    exact State.enterFenced_outbox orphans room

end Sys2Proof.Machine

namespace Sys2Proof.Machine

/-! ### Admission of a request that passes every test (R44, R46) -/

section Admission

variable {s : State} {i j : SlotIndex} {f : Frame} {c e : Entry}

theorem State.acceptance_create (watched : (s.profile f.cls).watched = true)
    (absent : s.findEntry i f.tag = none) (place : (s.slot i).requestCount < (s.slot i).ceiling)
    (room : s.table.length < 2048) : s.acceptance i f = .create := by
  unfold State.acceptance
  rw [if_neg (by simp [watched]), absent]
  exact (if_neg (Nat.not_le.mpr place)).trans (if_neg (by simp [State.tableHasRoom_iff.mpr room]))

theorem State.acceptance_retry (watched : (s.profile f.cls).watched = true)
    (found : s.findEntry i f.tag = some e) (request : e.kind = .request) (retries : e.retries < 3) :
    s.acceptance i f = .retry := by
  unfold State.acceptance
  rw [if_neg (by simp [watched]), found]
  simp only [request]
  exact if_pos retries

theorem State.carryAdmission_created (h : s.admission i f = .create) :
    s.carryAdmission i f = ((s.clearUpStage.createEntry i f false).linkTwin i f).forwardDown f := by
  unfold State.carryAdmission
  rw [h]

theorem State.carryAdmission_retried (h : s.admission i f = .retry) :
    s.carryAdmission i f = (s.clearUpStage.countRetry i f.tag).forwardDown f := by
  unfold State.carryAdmission
  rw [h]

/-! ### Twin linking (R73, R75) -/

theorem Entry.linkable_iff : e.linkable = true ↔
    e.kind = .request ∧ e.redirected = false ∧ e.partner = none ∧ e.straggled = false ∧
      e.state ≠ .held := by
  simp [Entry.linkable, and_assoc]

theorem State.linkTwin_alone (alone : (s.slot i).config.twin = none) : s.linkTwin i f = s := by
  unfold State.linkTwin
  rw [alone]

theorem State.linkTwin_absent (twin : (s.slot i).config.twin = some j)
    (absent : s.findEntry j f.tag = none) : s.linkTwin i f = s := by
  unfold State.linkTwin
  rw [twin]
  dsimp only
  rw [absent]

theorem State.linkTwin_found (twin : (s.slot i).config.twin = some j)
    (found : s.findEntry j f.tag = some c) : s.linkTwin i f =
      if c.linkable then
        (s.updEntry ⟨i, f.tag⟩ fun e =>
            { e with partner := some ⟨j, f.tag⟩, pairWindow := some (s.profile f.cls).twinWindow }).updEntry
          ⟨j, f.tag⟩ fun e =>
            { e with partner := some ⟨i, f.tag⟩, pairWindow := some (s.profile f.cls).twinWindow }
      else s := by
  unfold State.linkTwin
  rw [twin]
  dsimp only
  rw [found]

/-- An entry created under slot `i` leaves what is found under another slot. -/
theorem State.findEntry_createEntry (other : j ≠ i) (redirected : Bool) (tag : Tag) :
    (s.createEntry i f redirected).findEntry j tag = s.findEntry j tag := by
  have key : (requestEntry s i f redirected).key ≠ ⟨j, tag⟩ := fun h =>
    other (congrArg EntryKey.slot h).symm
  rw [State.createEntry_eq]
  show List.find? _ (s.table ++ [requestEntry s i f redirected]) = _
  rw [List.find?_append, List.find?_cons_of_neg (by simpa using key), List.find?_nil, Option.or_none]
  rfl

/-- An entry joins the table and is changed, then the entry of another key is: where no entry had the key of
the new one, the first change is the new entry's alone. -/
theorem map_link {l : List Entry} {k : EntryKey} (g h : Entry → Entry) (keyed : (g e).key = e.key)
    (absent : ∀ x ∈ l, x.key ≠ e.key) (other : e.key ≠ k) :
    ((l ++ [e]).map fun x => if x.key = e.key then g x else x).map
      (fun x => if x.key = k then h x else x) =
      l.map (fun x => if x.key = k then h x else x) ++ [g e] := by
  have unchanged : (l.map fun x => if x.key = e.key then g x else x) = l := by
    rw [List.map_congr_left fun x hx => if_neg (absent x hx), List.map_id']
  rw [List.map_append, unchanged, List.map_append]
  simp [keyed, other]

end Admission

/-- Settles O12: the creation with each outcome of twin linking, and the retry. -/
theorem admissionAndRetry : Obligations.AdmissionAndRetry := by
  refine ⟨fun s f i staged req watching room addressed own accepting watched absent place space => ?_,
    fun s f i e staged req watching room addressed own accepting watched found request retries => ?_⟩
  · intro deadline window e with'
    have taken : exec .takeUpFrame s =
        .next (((s.clearUpStage.createEntry i f false).linkTwin i f).forwardDown f) := by
      have decision := (State.admission_accepting own accepting).trans
        (State.acceptance_create watched absent place space)
      refine (execTakeUpFrame_request staged req watching room addressed).trans ?_
      rw [State.carryAdmission_created decision]
    have entry : ∀ j, j ≠ i →
        (s.clearUpStage.createEntry i f false).findEntry j f.tag = s.findEntry j f.tag := fun j other =>
      State.findEntry_createEntry (s := s.clearUpStage) other false f.tag
    have created_eq : s.clearUpStage.createEntry i f false =
        State.setSlot { s.clearUpStage with table := s.table ++ [e] } i
          ({ s.slot i with requestCount := (s.slot i).requestCount + 1 }.credit .arrivals) :=
      s.clearUpStage.createEntry_eq i f false
    generalize s.clearUpStage.createEntry i f false = created at taken entry created_eq
    have config : (created.slot i).config = (s.slot i).config := by
      rw [created_eq, State.slot_setSlot_self]
      rfl
    have unlinked : created.linkTwin i f = created →
        exec .takeUpFrame s = .next (with' (s.table ++ [e])) := fun h => by
      rw [taken, h, created_eq]
      rfl
    refine ⟨fun alone => unlinked (State.linkTwin_alone (config ▸ alone)), fun j twin other => ?_⟩
    have twin' : (created.slot i).config.twin = some j := config ▸ twin
    refine ⟨fun none => unlinked (State.linkTwin_absent twin' ((entry j other).trans none)), fun c found =>
      ⟨fun spared => unlinked ?_, fun kind direct free punctual waits => ?_⟩⟩
    · rw [State.linkTwin_found twin' ((entry j other).trans found), if_neg]
      rw [Entry.linkable_iff]
      rintro ⟨kind, direct, free, punctual, waits⟩
      obtain probe | redirected | paired | straggled | held := spared
      · simp [probe] at kind
      · simp [redirected] at direct
      · exact paired free
      · simp [straggled] at punctual
      · exact waits held
    · have key : e.key ≠ ⟨j, f.tag⟩ := fun h => other (congrArg EntryKey.slot h).symm
      have linked := map_link (l := s.table) (k := ⟨j, f.tag⟩)
        (fun x => { x with partner := some ⟨j, f.tag⟩, pairWindow := some window })
        (fun x => { x with partner := some ⟨i, f.tag⟩, pairWindow := some window }) (e := e) rfl
        (State.findEntry_none absent) key
      rw [taken, State.linkTwin_found twin' ((entry j other).trans found),
        if_pos (Entry.linkable_iff.mpr ⟨kind, direct, free, punctual, waits⟩), created_eq, ← linked]
      rfl
  · have decision := (State.admission_accepting own accepting).trans
      (State.acceptance_retry watched found request retries)
    refine (execTakeUpFrame_request staged req watching room addressed).trans ?_
    rw [State.carryAdmission_retried decision]
    rfl

/-! ### Matching of an answer from a slot that is still watched (R52 to R55) -/

section Matching

variable {s : State} {i : SlotIndex} {f : Frame} {e : Entry}

/-- An RSP from a slot of the watch range, taken in WATCHING, is matching carried out (R48). -/
theorem execTakeDownFrame_response (staged : s.trunk.downStage = some f) (rsp : f.kind = 2)
    (watching : s.mgmt.mode = .watching) (room : s.trunk.ascBuffer.length < 8)
    (addressed : s.Addresses f.slot i) (a b : Bool) :
    execTakeDownFrame a b s = .next (s.carryMatching i f a b) := by
  rw [execTakeDownFrame_taken staged (by simp [watching]) room, State.classifyDown_rsp rsp,
    State.takeResponse_matched watching addressed]

/-- An answer from an accepting or DRAINING slot comes to the tests of R51 to R55. -/
theorem State.matching_watched (request : ∀ e, s.findEntry i f.tag = some e → e.kind = .request)
    (own : tagMarker f.tag ≠ s.engine.marker)
    (answering : (s.slot i).state.accepting = true ∨ (s.slot i).state = .draining) :
    s.matching i f = s.matchEntry i f := by
  rw [State.matching_own (State.probeEntryHas_of_request request) own]
  obtain accepting | draining := answering
  · rw [if_neg, if_neg]
    · rintro fenced
      simp [fenced, SlotState.accepting] at accepting
    · rintro (vacant | parked)
      · simp [vacant, SlotState.accepting] at accepting
      · simp [parked, SlotState.accepting] at accepting
  · rw [if_neg (by simp [draining]), if_neg (by simp [draining])]

/-- An answer from a FENCED slot is absorbed (R50). -/
theorem State.matching_fenced (request : ∀ e, s.findEntry i f.tag = some e → e.kind = .request)
    (own : tagMarker f.tag ≠ s.engine.marker) (fenced : (s.slot i).state = .fenced) :
    s.matching i f = .absorbed := by
  rw [State.matching_own (State.probeEntryHas_of_request request) own, if_neg (by simp [fenced]),
    if_pos fenced]

theorem State.matchEntry_held (found : s.findEntry i f.tag = some e) (held : e.state = .held) :
    s.matchEntry i f = .duplicate := by
  unfold State.matchEntry
  rw [found]
  exact if_pos held

theorem State.matchEntry_open (found : s.findEntry i f.tag = some e) (waits : e.state ≠ .held) :
    s.matchEntry i f = .completion e := by
  unfold State.matchEntry
  rw [found]
  exact if_neg waits

/-- Without an entry, the lost-tag list tells a tardy answer from a stray (R54, R55). -/
theorem State.matchEntry_absent (absent : s.findEntry i f.tag = none)
    (watched : (s.profile f.cls).watched = true) : s.matchEntry i f =
      if f.tag ∈ (s.slot i).lostTags then .tardy else .stray := by
  unfold State.matchEntry
  rw [absent]
  exact if_neg (by simp [watched])

end Matching

/-- Settles O17: matching decides, and each outcome is carried out. -/
theorem answersWithoutAnOpenEntry : Obligations.AnswersWithoutAnOpenEntry := by
  refine ⟨fun s f i e a b staged rsp watching room addressed own answering found request held => ?_,
    fun s f i a b staged rsp watching room addressed own => ?_⟩
  · have requests : ∀ x, s.findEntry i f.tag = some x → x.kind = .request := fun x hx => by
      obtain rfl := Option.some.inj (found.symm.trans hx)
      exact request
    refine (execTakeDownFrame_response staged rsp watching room addressed a b).trans ?_
    unfold State.carryMatching
    rw [State.matching_watched requests own answering, State.matchEntry_held found held]
    rfl
  · have taken := execTakeDownFrame_response staged rsp watching room addressed a b
    refine ⟨fun fenced requests => taken.trans ?_, fun answering absent watched =>
      ⟨fun lost => taken.trans ?_, fun unknown => taken.trans ?_⟩⟩
    · unfold State.carryMatching
      rw [State.matching_fenced requests own fenced]
      rfl
    all_goals
      unfold State.carryMatching
      rw [State.matching_watched (by simp [absent]) own answering, State.matchEntry_absent absent watched]
    · rw [if_pos lost]
      show Host.Outcome.next (State.forwardUp (State.updSlot (State.updSlot _ i _) i _) f) = _
      rw [State.updSlot_updSlot]
      rfl
    · rw [if_neg unknown]
      rfl

/-! ### The answer of an OPEN or OVERDUE entry (R52) -/

/-- The slot record's share of a completion: the credits and the latency sample (R52, R104). -/
def SlotRecord.countAnswer (r : SlotRecord) (late : Bool) (x : Sample) : SlotRecord :=
  (if late = true then (r.credit .completions).credit .lates else r.credit .completions).sampleLatency x

theorem State.countCompletion_eq (s : State) (e : Entry) :
    s.countCompletion e = s.setSlot e.slot ((s.slot e.slot).countAnswer (decide (e.state = .overdue))
      ⟨tickAge16 s.time.tick e.arrival, e.cls, decide (e.state = .overdue)⟩) := by
  unfold State.countCompletion SlotRecord.countAnswer State.credit
  dsimp only
  by_cases late : e.state = .overdue
  · rw [if_pos late, State.updSlot_updSlot, State.updSlot_updSlot, if_pos (decide_eq_true late)]
    rfl
  · rw [if_neg late, State.updSlot_updSlot, if_neg (by simpa using late)]
    rfl

section Answers

variable {s : State} {e p : Entry} {k : EntryKey} {d : Digest} {a b : Bool}

theorem State.disposeAnswered_alone (alone : e.partner = none) :
    s.disposeAnswered e d a b = s.removeEntry e := by
  unfold State.disposeAnswered
  rw [alone]

theorem State.disposeAnswered_paired (partner : e.partner = some k)
    (found : s.findEntry k.slot k.tag = some p) : s.disposeAnswered e d a b =
      if p.state = .held then s.compareTwins p e d a b else s.holdEntry e d := by
  unfold State.disposeAnswered
  rw [partner]
  dsimp only
  rw [found]

theorem State.compareTwins_equal (equal : p.digest = some d) :
    s.compareTwins p e d a b = s.removePair p e a := if_pos equal

theorem State.compareTwins_differ (differ : p.digest ≠ some d) : s.compareTwins p e d a b =
    (((s.removePair p e a).credit p.slot .divergences).credit e.slot .divergences).raiseDivergences
      p e b := if_neg differ

/-- The watch base stands through work on slots, entries and alerts. -/
theorem SlotWork.slotAddr {s t : State} (w : SlotWork s t) (i : SlotIndex) :
    t.slotAddr i = s.slotAddr i := by
  unfold State.slotAddr
  rw [w.mgmt]

/-- The two DIVERGE conditions, in terms of the slot addresses as they stand before (R79). -/
theorem State.raiseDivergences_eq (s : State) (p e : Entry) (b : Bool) :
    let first (t : State) := t.raiseVerdict p.slot .diverge 0 (some (s.slotAddr e.slot)) (some p.tag)
    let second (t : State) := t.raiseVerdict e.slot .diverge 0 (some (s.slotAddr p.slot)) (some e.tag)
    s.raiseDivergences p e b = if b = true then second (first s) else first (second s) := by
  intro first second
  unfold State.raiseDivergences State.raiseDiverge
  by_cases heldFirst : b = true
  · rw [if_pos heldFirst, if_pos heldFirst, (SlotWork.raiseVerdict s ..).slotAddr]
  · rw [if_neg heldFirst, if_neg heldFirst, (SlotWork.raiseVerdict s ..).slotAddr]

end Answers

/-- Settles O18: the completion is counted, and the partner decides what becomes of the entry. -/
theorem answersToAnEntry : Obligations.AnswersToAnEntry := by
  intro s f i e removedFirst judgedFirst staged rsp watching room addressed own answering found request waits
    late r counted answer
  obtain ⟨-, key⟩ := State.findEntry_some found
  obtain ⟨rfl, tag⟩ : e.slot = i ∧ e.tag = f.tag :=
    ⟨congrArg EntryKey.slot key, congrArg EntryKey.tag key⟩
  have requests : ∀ x, s.findEntry e.slot f.tag = some x → x.kind = .request := fun x hx => by
    obtain rfl := Option.some.inj (found.symm.trans hx)
    exact request
  have counted_eq : s.clearDownStage.countCompletion e = counted := State.countCompletion_eq _ e
  have taken : answer = .next ((counted.disposeAnswered e (crc f.payload) removedFirst
      judgedFirst).forwardUp f) := by
    refine (execTakeDownFrame_response staged rsp watching room addressed _ _).trans ?_
    unfold State.carryMatching
    rw [State.matching_watched requests own answering, State.matchEntry_open found waits, ← counted_eq]
  refine ⟨fun alone => ?_, fun j p partner other => ?_⟩
  · rw [taken, State.disposeAnswered_alone alone]
  · obtain ⟨-, key'⟩ := State.findEntry_some other
    obtain ⟨rfl, tag'⟩ : p.slot = j ∧ p.tag = f.tag :=
      ⟨congrArg EntryKey.slot key', congrArg EntryKey.tag key'⟩
    rw [taken, State.disposeAnswered_paired (s := counted) partner other]
    refine ⟨fun unanswered => ?_, fun held => ⟨fun equal => ?_, fun differ => ?_⟩⟩
    · intro waiting
      rw [if_neg unanswered, State.holdEntry, key]
      rfl
    · rw [if_pos held, State.compareTwins_equal equal]
      rfl
    · intro credited first second
      rw [if_pos held, State.compareTwins_differ differ, State.raiseDivergences_eq, tag, tag']
      have work := ((SlotWork.removePair counted p e removedFirst).trans
        (SlotWork.credit _ p.slot .divergences)).trans (SlotWork.credit _ e.slot .divergences)
      rw [work.slotAddr, work.slotAddr]
      rfl

end Sys2Proof.Machine

namespace Sys2Proof.Machine

/-! ### When RELEASE is refused (R206) -/

theorem SlotRecord.blocksRelease_iff {r : SlotRecord} : r.blocksRelease = true ↔
    r.state = .fenced ∨ r.state = .draining ∨ r.fencePending = true := by
  simp [SlotRecord.blocksRelease, or_assoc]

theorem State.releaseBlocked_iff {s : State} :
    (allSlots.any fun i => (s.slot i).blocksRelease) = true ↔
      ∃ i, (s.slot i).state = .fenced ∨ (s.slot i).state = .draining ∨ (s.slot i).fencePending = true := by
  simp only [List.any_eq_true, mem_allSlots, true_and, SlotRecord.blocksRelease_iff]

theorem releaseRule_unwatched {s : State} (other : s.mgmt.mode ≠ .watching) (c : CommandCopy) :
    releaseRule s c = .done s [] := if_neg other

theorem releaseRule_blocked {s : State} (watching : s.mgmt.mode = .watching)
    (blocked : (allSlots.any fun i => (s.slot i).blocksRelease) = true) (c : CommandCopy) :
    releaseRule s c = .refuse .state := (if_pos watching).trans (if_pos blocked)

theorem releaseRule_accepted {s : State} (watching : s.mgmt.mode = .watching)
    (free : ¬ (allSlots.any fun i => (s.slot i).blocksRelease) = true) (c : CommandCopy) :
    releaseRule s c = .done s.releaseEffect [] := (if_pos watching).trans (if_neg free)

/-! ### The blocks after an accepted RELEASE (R206) -/

theorem SlotWork.changeMode (s : State) (new : Mode) :
    SlotWork { s with mgmt := { s.mgmt with mode := new } } (s.changeMode new) :=
  SlotWork.queueAlert _ _

theorem State.AlertsOnly.changeMode (s : State) (new : Mode) : s.AlertsOnly (s.changeMode new) :=
  (State.AlertsOnly.of_report (t := { s with mgmt := { s.mgmt with mode := new } }) rfl).trans
    (.queueAlert _ _)

/-- RELEASE leaves these blocks, and of the management unit all but the mode and the sticky flags. -/
theorem State.releaseEffect_blocks (s : State) :
    s.releaseEffect.trunk = s.trunk ∧ s.releaseEffect.time = s.time ∧
    s.releaseEffect.policy = s.policy ∧ s.releaseEffect.store = s.store ∧
    s.releaseEffect.pending = s.pending ∧
    s.releaseEffect.mgmt = { s.mgmt with
      mode := .transparent, flags := s.releaseEffect.mgmt.flags } := by
  have cancel := s.cancelProbe_work
  have slots := s.releasedSlots_work
  have alert := SlotWork.changeMode s.releasedSlots .transparent
  have mgmt : s.releasedSlots.mgmt = { s.mgmt with flags := s.releasedSlots.mgmt.flags } := by
    refine slots.mgmt.trans ?_
    show { s.cancelProbe.mgmt with flags := s.releasedSlots.mgmt.flags } = _
    rw [cancel.mgmt]
  have kept : s.emptied.trunk = s.trunk ∧ s.emptied.time = s.time ∧ s.emptied.policy = s.policy ∧
      s.emptied.store = s.store ∧ s.emptied.pending = s.pending :=
    ⟨cancel.trunk, cancel.time, cancel.policy, cancel.store, cancel.pending⟩
  obtain ⟨trunk, time, policy, store, pending⟩ := kept
  rw [State.releaseEffect_eq]
  refine ⟨?_, ?_, ?_, ?_, ?_, ?_⟩
  · rw [alert.trunk, slots.trunk, trunk]
  · rw [alert.time, slots.time, time]
  · rw [alert.policy, slots.policy, policy]
  · rw [alert.store, slots.store, store]
  · rw [alert.pending, slots.pending, pending]
  · rw [alert.mgmt, mgmt]

/-- A RELEASE empties the request set (R156). -/
theorem State.releaseEffect_request? (s : State) (i : SlotIndex) : s.releaseEffect.request? i = none := by
  simp [State.request?, State.releaseEffect_engine]

section Unblocked

variable {s : State} (settled : ∀ i, (s.slot i).state ≠ .draining)

include settled

/-- Where no drain can end, an emptied record keeps its state. -/
theorem State.slot_emptied_settled (i : SlotIndex) : s.emptied.slot i = { (s.slot i).clearEntries with
    lastProbe := if s.engine.inFlight.map InFlight.slot = some i then .cancelled
      else (s.slot i).lastProbe } := by
  obtain ⟨st, record, state⟩ := s.cancelProbe_clear i
  rw [State.slot_emptied, record, state (settled i)]
  rfl

theorem State.releaseEffect_alertsOnly : s.AlertsOnly s.releaseEffect := by
  have slots : s.emptied.AlertsOnly s.releasedSlots := .foldl _ .releaseSlot allSlots _
  rw [State.releaseEffect_eq]
  exact (State.AlertsOnly.of_report (State.cancelProbe_quiet settled).1).trans
    (slots.trans (.changeMode s.releasedSlots .transparent))

end Unblocked

/-! ### The alerts of RELEASE (R90, R199, R206) -/

/-- The SLOT_STATE alert that RELEASE queues for a slot of record `r`, if it is watched (R97). -/
def releaseAlert (base : Nat) (i : SlotIndex) (r : SlotRecord) : Option AlertRecord :=
  if r.state.watched = true then some (.slotState (base + i.val) r.state .parked .release) else none

/-- The SLOT_STATE alerts that RELEASE queues for the slots of `s`, ascending (R206). -/
def State.releaseAlerts (s : State) : List AlertRecord :=
  allSlots.filterMap fun i => releaseAlert s.mgmt.watchBase i (s.slot i)

/-- The alerts of the slots find room, and the management unit stands. -/
theorem State.releasedSlots_room {s : State}
    (room : s.emptied.report.outbox.length + s.emptied.releaseAlerts.length ≤ 32) :
    s.releasedSlots.report = { s.emptied.report with
      outbox := s.emptied.report.outbox ++
        s.emptied.releaseAlerts.map fun r => ⟨r, s.emptied.mgmt.chain⟩ } ∧
    s.releasedSlots.mgmt = s.emptied.mgmt := by
  refine foldl_alerts _ (releaseAlert s.emptied.mgmt.watchBase) (fun s _ _ => s.slot_releaseSlot_other)
    (fun t i base silent => ?_) (fun t i r base queued => ?_) allSlots allSlots_nodup s.emptied rfl room
  · unfold releaseAlert at silent
    unfold State.releaseSlot
    split at silent
    · cases silent
    · rename_i unwatched
      rw [if_neg unwatched]
      exact ⟨rfl, rfl⟩
  · unfold releaseAlert at queued
    unfold State.releaseSlot
    split at queued
    · rename_i watched
      rw [if_pos watched, ← Option.some.inj queued, ← base, State.queueAlert_updSlot]
      exact ⟨rfl, rfl⟩
    · cases queued

/-- A watched slot that is neither FENCED nor DRAINING is accepting (R89). -/
theorem SlotState.watched_eq_accepting {st : SlotState} (fenced : st ≠ .fenced)
    (draining : st ≠ .draining) : st.watched = st.accepting := by
  cases st with
  | fenced => exact absurd rfl fenced
  | draining => exact absurd rfl draining
  | vacant | parked | probation | live | suspect => rfl

/-- Of slots among which none is FENCED or DRAINING the accepting ones are parked, each with its alert. -/
theorem State.releaseAlerts_eq {s : State}
    (settled : ∀ i, (s.slot i).state ≠ .fenced ∧ (s.slot i).state ≠ .draining) : s.releaseAlerts =
      (allSlots.filter fun i => (s.slot i).state.accepting).map fun i =>
        .slotState (s.slotAddr i) (s.slot i).state .parked .release := by
  unfold State.releaseAlerts releaseAlert
  induction allSlots with
  | nil => rfl
  | cons i l ih =>
    have watched := SlotState.watched_eq_accepting (settled i).1 (settled i).2
    cases accepting : (s.slot i).state.accepting
    · simp [watched, accepting, ih]
    · simp [watched, accepting, ih, State.slotAddr]

theorem State.changeMode_room {s : State} (room : s.report.outbox.length < 32) (new : Mode) :
    s.changeMode new = { s with
      mgmt := { s.mgmt with mode := new }
      report := { s.report with
        outbox := s.report.outbox ++ [⟨.mode s.mgmt.mode new, s.mgmt.chain⟩] } } :=
  State.queueAlert_room _ _ room

/-- The alerts of a RELEASE in an outbox with room: a SLOT_STATE for each slot parked, then MODE. -/
theorem State.releaseEffect_room {s : State}
    (room : s.emptied.report.outbox.length + s.emptied.releaseAlerts.length + 1 ≤ 32) :
    s.releaseEffect.mgmt.flags = s.emptied.mgmt.flags ∧
    s.releaseEffect.report.lostCount = s.emptied.report.lostCount ∧
    s.releaseEffect.report.outbox = s.emptied.report.outbox ++
      (s.emptied.releaseAlerts.map fun r => ⟨r, s.emptied.mgmt.chain⟩) ++
      [⟨.mode s.emptied.mgmt.mode .transparent, s.emptied.mgmt.chain⟩] := by
  obtain ⟨report, mgmt⟩ := State.releasedSlots_room (s := s) (by omega)
  have free : s.releasedSlots.report.outbox.length < 32 := by
    rw [report, List.length_append, List.length_map]
    omega
  rw [State.releaseEffect_eq, State.changeMode_room free, report, mgmt]
  exact ⟨rfl, rfl, rfl⟩

/-- Settles O39: the refusals, and of the accepted RELEASE the blocks, the alerts and the records. -/
theorem release : Obligations.Release := by
  intro s seq how holds blocked
  have run : ∀ {t : State}, releaseRule s ⟨[0x04], seq, how⟩ = .done t [] →
      exec .release s = .next (t.answered 0x04 seq how []) := fun rule =>
    congrArg Host.Outcome.next (State.runCommand_done holds rfl (fun _ => by decide) rfl rfl rule)
  refine ⟨fun other => run (releaseRule_unwatched other _), fun watching refused =>
    congrArg Host.Outcome.next (State.runCommand_refuse (r := .state) holds rfl (fun _ => by decide) rfl rfl
      (releaseRule_blocked watching (State.releaseBlocked_iff.mpr refused) _)), fun watching free => ?_⟩
  have fenced : ∀ i, (s.slot i).state ≠ .fenced := fun i h => free ⟨i, .inl h⟩
  have draining : ∀ i, (s.slot i).state ≠ .draining := fun i h => free ⟨i, .inr (.inl h)⟩
  have slot := State.slot_emptied_settled draining
  obtain ⟨trunk, time, policy, store, pending, mgmt⟩ := s.releaseEffect_blocks
  obtain ⟨report', mgmt'⟩ := State.cancelProbe_quiet draining
  refine ⟨s.releaseEffect, run (releaseRule_accepted watching (mt State.releaseBlocked_iff.mp free) _), trunk,
    time, policy, store, pending, s.releaseEffect_table, mgmt, State.releaseEffect_alertsOnly draining, ?_, ?_,
    s.releaseEffect_request?, ?_, ?_, ?_⟩
  · intro left room
    have state : ∀ i, (s.emptied.slot i).state = (s.slot i).state := fun i => by
      rw [slot]
      rfl
    have alerts : s.emptied.releaseAlerts = left.map fun i =>
        .slotState (s.mgmt.watchBase + i.val) (s.slot i).state .parked .release := by
      rw [State.releaseAlerts_eq fun i => by rw [state]; exact ⟨fenced i, draining i⟩]
      simp only [state, State.slotAddr]
      rw [show s.emptied.mgmt = s.mgmt from mgmt']
      rfl
    have queued := State.releaseEffect_room (s := s) (by
      rw [alerts, List.length_map, show s.emptied.report = s.report from report']
      exact room)
    rw [alerts, show s.emptied.report = s.report from report', show s.emptied.mgmt = s.mgmt from mgmt',
      watching, List.map_map] at queued
    exact queued
  · rw [State.releaseEffect_engine]
    exact s.cancelProbe_inFlight
  · intro idle
    rw [State.releaseEffect_engine, State.cancelProbe_idle idle]
  · intro p flies
    rw [State.releaseEffect_engine, State.cancelProbe_engine flies]
    rfl
  · intro i r
    rw [State.slot_releaseEffect, ← State.slot_emptied, slot]
    unfold SlotRecord.atRelease SlotState.unwatched
    cases watched : (s.slot i).state.watched
    · simp only [SlotRecord.clearEntries, watched]
      rfl
    · simp only [SlotRecord.clearEntries, watched]
      rfl

end Sys2Proof.Machine

namespace Sys2Proof.Machine

/-! ### Slot commands run to their rules (R182, R198) -/

section SlotCommand

variable {s t : State} {code a seq : Byte} {ps : List Byte} {i : SlotIndex} {width : Nat}
  {rule : State → SlotIndex → CommandCopy → CommandResult}

/-- A slot command whose first parameter is not in the watch range answers RANGE (R182, step 4). -/
theorem State.runSlotCommand_outside (holds : s.Holds code (a :: ps) seq .own)
    (length : (a :: ps).length = width) (outside : s.OutsideRange a) :
    s.runCommand ⟨code, .own, width⟩ (slotRule rule) = s.turnedAway code seq .own 3 :=
  State.runCommand_refuse holds rfl nofun rfl length (slotRule_outside outside rule _ rfl)

/-- A slot command that its rule refuses at the slot addressed is answered with the rule's result code. -/
theorem State.runSlotCommand_refuse (holds : s.Holds code (a :: ps) seq .own)
    (length : (a :: ps).length = width) (addressed : s.Addresses a i) (r : ResultCode)
    (refused : rule s i ⟨code :: a :: ps, seq, .own⟩ = .refuse r) :
    s.runCommand ⟨code, .own, width⟩ (slotRule rule) = s.turnedAway code seq .own r.code :=
  State.runCommand_refuse holds rfl nofun rfl length
    ((slotRule_addresses addressed rule _ rfl).trans refused)

/-- A slot command that its rule accepts at the slot addressed is answered OK after the rule's effect. -/
theorem State.runSlotCommand_done (holds : s.Holds code (a :: ps) seq .own)
    (length : (a :: ps).length = width) (addressed : s.Addresses a i) {results : List Byte}
    (accepted : rule s i ⟨code :: a :: ps, seq, .own⟩ = .done t results) :
    s.runCommand ⟨code, .own, width⟩ (slotRule rule) = t.answered code seq .own results :=
  State.runCommand_done holds rfl nofun rfl length
    ((slotRule_addresses addressed rule _ rfl).trans accepted)

end SlotCommand

/-- The commands whose one parameter is a slot address, with their codes (R180, R198). -/
def slotAddressForms : List (Instr × Byte) :=
  [(.admitSlot, 0x0E), (.park, 0x0F), (.fence, 0x10), (.unfence, 0x11), (.vacate, 0x12),
    (.unpair, 0x14), (.slotStatus, 0x16), (.readSample, 0x17), (.readSnapshot, 0x19), (.probe, 0x1A)]

theorem exec_slotAddressForm : ∀ form ∈ slotAddressForms, ∃ rule, ∀ s : State,
    exec form.1 s = .next (s.runCommand ⟨form.2, .own, 1⟩ (slotRule rule)) := by
  simp only [slotAddressForms, List.forall_mem_cons, List.not_mem_nil, false_implies, implies_true,
    and_true]
  and_intros <;> exact ⟨_, fun _ => rfl⟩

/-- PAIR refuses a second slot address outside the watch range (R70). -/
theorem pairRule_outside {s : State} {a b c seq : Byte} (i : SlotIndex) (outside : s.OutsideRange b) :
    pairRule s i ⟨[c, a, b], seq, .own⟩ = .refuse .range := by
  have second : s.slotIndex? (p8 (CommandCopy.params ⟨[c, a, b], seq, .own⟩) 1) = none :=
    State.slotIndex?_of_outside outside
  unfold pairRule
  rw [second]

/-- A byte is outside the watch range or addresses a slot. -/
theorem State.outsideRange_or_addresses (s : State) (a : Byte) :
    s.OutsideRange a ∨ ∃ i, s.Addresses a i := by
  simpa only [not_exists] using (em (∃ i, s.Addresses a i)).symm

/-- Settles O44: every slot command resolves its first address before its own rule, and PAIR the second
one right after it. -/
theorem slotAddressOutsideTheRange : Obligations.SlotAddressOutsideTheRange := by
  intro s a b seq ps outside length
  refine ⟨fun c code form holds => ?_, fun holds => congrArg Host.Outcome.next ?_,
    fun holds => congrArg Host.Outcome.next ?_, fun holds => congrArg Host.Outcome.next ?_⟩
  · obtain ⟨rule, run⟩ := exec_slotAddressForm (c, code) form
    exact (run s).trans
      (congrArg Host.Outcome.next (State.runSlotCommand_outside holds rfl outside))
  · exact State.runSlotCommand_outside holds rfl outside
  · obtain first | ⟨j, first⟩ := s.outsideRange_or_addresses b
    · exact State.runSlotCommand_outside holds rfl first
    · exact State.runSlotCommand_refuse holds rfl first .range (pairRule_outside j outside)
  · exact State.runSlotCommand_outside holds (congrArg (· + 1) length) outside

/-! ### VACATE (R72, R96) -/

/-- VACATE by the state of the slot and its entries (R96). -/
theorem vacateRule_eq (s : State) (i : SlotIndex) (c : CommandCopy) : vacateRule s i c =
    if (s.slot i).state.accepting = true ∨ (s.slot i).state = .draining then .refuse .state
    else if (s.slot i).state = .vacant ∨ (s.slot i).noEntry = true then .done (s.vacateEffect i) []
    else .refuse .busy := by
  unfold vacateRule
  cases (s.slot i).state <;> simp [SlotState.accepting]

/-- A slot that is VACANT, PARKED or FENCED neither accepts requests nor drains (R89). -/
theorem SlotState.not_accepting_or_draining {st : SlotState}
    (h : st = .vacant ∨ st = .parked ∨ st = .fenced) : ¬ (st.accepting = true ∨ st = .draining) := by
  obtain rfl | rfl | rfl := h <;> decide

theorem State.dropTwinOf_none {s : State} {i : SlotIndex} (twin : (s.slot i).config.twin = none) :
    s.dropTwinOf i = s := by
  unfold State.dropTwinOf
  rw [twin]

theorem State.dropTwinOf_some {s : State} {i j : SlotIndex} (twin : (s.slot i).config.twin = some j) :
    s.dropTwinOf i = s.setSlot j ((s.slot j).setTwin none) := by
  unfold State.dropTwinOf
  rw [twin]
  rfl

/-- A record vacated without an entry is as never configured (R96). -/
theorem SlotRecord.vacated_of_noEntry {r : SlotRecord} (empty : r.noEntry = true) :
    r.vacated = .loaded .default := by
  obtain ⟨count, flag⟩ := SlotRecord.noEntry_iff.mp empty
  unfold SlotRecord.vacated
  rw [count, flag]
  rfl

/-- The slot records that VACATE leaves of a slot without an entry: its twin's twin field absent, its own
record as never configured (R72, R96). -/
theorem State.updSlot_vacated {s : State} {i : SlotIndex} (empty : (s.slot i).noEntry = true) :
    (s.dropTwinOf i).updSlot i SlotRecord.vacated =
      (s.dropTwinOf i).setSlot i (.loaded .default) := by
  obtain ⟨t, slot⟩ := s.slot_dropTwinOf i i
  have still : ((s.dropTwinOf i).slot i).noEntry = true := by
    rw [slot]
    exact empty
  unfold State.updSlot
  rw [SlotRecord.vacated_of_noEntry still]

theorem State.vacateEffect_vacant {s : State} {i : SlotIndex} (empty : (s.slot i).noEntry = true)
    (vacant : (s.slot i).state = .vacant) :
    s.vacateEffect i = (s.dropTwinOf i).setSlot i (.loaded .default) :=
  (if_pos vacant).trans (State.updSlot_vacated empty)

/-- A slot that was not VACANT is reported when it is vacated (R90, R96). -/
theorem State.vacateEffect_occupied {s : State} {i : SlotIndex} (empty : (s.slot i).noEntry = true)
    (occupied : (s.slot i).state ≠ .vacant) :
    s.vacateEffect i = ((s.dropTwinOf i).setSlot i (.loaded .default)).queueAlert
      (.slotState (s.mgmt.watchBase + i.val) (s.slot i).state .vacant .command) := by
  rw [← State.updSlot_vacated empty]
  exact if_neg occupied

/-- Settles O47: the rule by state and entries, then the two records that an accepted VACATE writes. -/
theorem vacate : Obligations.Vacate := by
  intro s a seq i holds addressed r held config x vacated
  have rule := vacateRule_eq s i ⟨[0x12, a], seq, .own⟩
  have left : (s.dropTwinOf i).setSlot i (.loaded .default) = vacated := by
    cases twin : (s.slot i).config.twin with
    | none =>
      rw [State.dropTwinOf_none twin]
      simp only [vacated, r, twin]
      rfl
    | some j =>
      rw [State.dropTwinOf_some twin]
      simp only [vacated, r, twin]
      rfl
  have empty : ¬ held ↔ (s.slot i).noEntry = true := by
    simp [held, r, SlotRecord.noEntry_iff]
  have accepted (idle : r.state = .vacant ∨ r.state = .parked ∨ r.state = .fenced) (free : ¬ held) :
      vacateRule s i ⟨[0x12, a], seq, .own⟩ = .done (s.vacateEffect i) [] :=
    (rule.trans (if_neg (SlotState.not_accepting_or_draining idle))).trans
      (if_pos (.inr (empty.mp free)))
  refine ⟨fun serving => congrArg Host.Outcome.next ?_, fun idle => ?_,
    fun vacant free => congrArg Host.Outcome.next ?_⟩
  · exact State.runSlotCommand_refuse holds rfl addressed .state (rule.trans (if_pos serving))
  · have occupied : r.state ≠ .vacant := by
      obtain parked | fenced := idle
      · simp [parked]
      · simp [fenced]
    refine ⟨fun busy => congrArg Host.Outcome.next ?_, fun free => congrArg Host.Outcome.next ?_⟩
    · have kept : ¬ (r.state = .vacant ∨ (s.slot i).noEntry = true) := by
        rintro (vacant | free)
        · exact occupied vacant
        · exact empty.mpr free busy
      exact State.runSlotCommand_refuse holds rfl addressed .busy
        ((rule.trans (if_neg (SlotState.not_accepting_or_draining (.inr idle)))).trans (if_neg kept))
    · rw [← left, ← State.vacateEffect_occupied (empty.mp free) occupied]
      exact State.runSlotCommand_done holds rfl addressed (accepted (.inr idle) free)
  · rw [← left, ← State.vacateEffect_vacant (empty.mp free) vacant]
    exact State.runSlotCommand_done holds rfl addressed (accepted (.inl vacant) free)

/-! ### PAIR and UNPAIR (R70, R71) -/

/-- VACANT or PARKED, the states in which a slot is paired and unpaired (R70, R71). -/
def State.Idle (s : State) (i : SlotIndex) : Prop :=
  (s.slot i).state = .vacant ∨ (s.slot i).state = .parked

theorem State.unwatched_eq_false_iff {s : State} {i : SlotIndex} :
    (s.slot i).state.unwatched = false ↔ ¬ s.Idle i := by
  unfold State.Idle
  cases (s.slot i).state <;> decide

theorem State.either_watched_iff {s : State} {i j : SlotIndex} :
    (s.slot i).state.unwatched = false ∨ (s.slot j).state.unwatched = false ↔
      ¬ (s.Idle i ∧ s.Idle j) := by
  rw [State.unwatched_eq_false_iff, State.unwatched_eq_false_iff, not_and_or]

/-- Two slot records changed one after the other are each changed from what they were, provided that on
one and the same slot the second change alone does as much as both. -/
theorem State.updSlot_updSlot_eq_setSlot {s : State} {i j : SlotIndex} {f g : SlotRecord → SlotRecord}
    (same : i = j → g (f (s.slot i)) = g (s.slot i)) :
    (s.updSlot i f).updSlot j g = (s.setSlot i (f (s.slot i))).setSlot j (g (s.slot j)) := by
  have second : g ((s.updSlot i f).slot j) = g (s.slot j) := by
    rw [State.slot_updSlot]
    split
    · subst_vars
      exact same rfl
    · rfl
  exact congrArg ((s.updSlot i f).setSlot j) second

section Pairing

variable {s : State} {a b code seq : Byte} {i j : SlotIndex}

/-- The checks of PAIR in their order, at two slot addresses of the watch range (R70). -/
theorem pairRule_addresses (addressed : s.Addresses b j) :
    pairRule s i ⟨[code, a, b], seq, .own⟩ =
      if i = j then .refuse .range
      else if (s.slot i).state.unwatched = false ∨ (s.slot j).state.unwatched = false then .refuse .state
      else if (s.slot i).config.twin.isSome = true ∨ (s.slot j).config.twin.isSome = true then
        .refuse .state
      else .done (s.pairEffect i j) [] := by
  have second : s.slotIndex? (p8 (CommandCopy.params ⟨[code, a, b], seq, .own⟩) 1) = some j :=
    State.slotIndex?_of_addresses addressed
  unfold pairRule
  rw [second]

theorem pairRule_same (addressed : s.Addresses b j) (same : i = j) :
    pairRule s i ⟨[code, a, b], seq, .own⟩ = .refuse .range :=
  (pairRule_addresses addressed).trans (if_pos same)

theorem pairRule_watched (addressed : s.Addresses b j) (other : i ≠ j)
    (watched : ¬ (s.Idle i ∧ s.Idle j)) :
    pairRule s i ⟨[code, a, b], seq, .own⟩ = .refuse .state :=
  ((pairRule_addresses addressed).trans (if_neg other)).trans
    (if_pos (State.either_watched_iff.mpr watched))

/-- The third check of PAIR, on two different slots both VACANT or PARKED (R70). -/
theorem pairRule_idle (addressed : s.Addresses b j) (other : i ≠ j) (idle : s.Idle i ∧ s.Idle j) :
    pairRule s i ⟨[code, a, b], seq, .own⟩ =
      if (s.slot i).config.twin.isSome = true ∨ (s.slot j).config.twin.isSome = true then .refuse .state
      else .done (s.pairEffect i j) [] :=
  ((pairRule_addresses addressed).trans (if_neg other)).trans
    (if_neg (not_not_intro idle ∘ State.either_watched_iff.mp))

theorem pairRule_twinned (addressed : s.Addresses b j) (other : i ≠ j) (idle : s.Idle i ∧ s.Idle j)
    (twinned : (s.slot i).config.twin ≠ none ∨ (s.slot j).config.twin ≠ none) :
    pairRule s i ⟨[code, a, b], seq, .own⟩ = .refuse .state :=
  (pairRule_idle addressed other idle).trans
    (if_pos (twinned.imp Option.isSome_iff_ne_none.mpr Option.isSome_iff_ne_none.mpr))

theorem pairRule_accepted (addressed : s.Addresses b j) (other : i ≠ j) (idle : s.Idle i ∧ s.Idle j)
    (first : (s.slot i).config.twin = none) (second : (s.slot j).config.twin = none) :
    pairRule s i ⟨[code, a, b], seq, .own⟩ = .done (s.pairEffect i j) [] :=
  (pairRule_idle addressed other idle).trans (if_neg (by simp [first, second]))

theorem unpairRule_single (c : CommandCopy) (single : (s.slot i).config.twin = none) :
    unpairRule s i c = .refuse .state := by
  unfold unpairRule
  rw [single]

/-- The check of UNPAIR on a slot with a twin (R71). -/
theorem unpairRule_twin (c : CommandCopy) (twin : (s.slot i).config.twin = some j) :
    unpairRule s i c =
      if (s.slot i).state.unwatched = false ∨ (s.slot j).state.unwatched = false then .refuse .state
      else .done ((s.updSlot i fun r => r.setTwin none).updSlot j fun r => r.setTwin none) [] := by
  unfold unpairRule
  rw [twin]

theorem unpairRule_watched (c : CommandCopy) (twin : (s.slot i).config.twin = some j)
    (watched : ¬ (s.Idle i ∧ s.Idle j)) : unpairRule s i c = .refuse .state :=
  (unpairRule_twin c twin).trans (if_pos (State.either_watched_iff.mpr watched))

/-- An accepted UNPAIR leaves both slots without a twin (R71). -/
theorem unpairRule_accepted (c : CommandCopy) (twin : (s.slot i).config.twin = some j)
    (idle : s.Idle i ∧ s.Idle j) : unpairRule s i c =
      .done ((s.setSlot i ((s.slot i).setTwin none)).setSlot j ((s.slot j).setTwin none)) [] := by
  rw [unpairRule_twin c twin, if_neg (not_not_intro idle ∘ State.either_watched_iff.mp),
    State.updSlot_updSlot_eq_setSlot fun _ => rfl]

end Pairing

/-- Settles O48: the checks in the order of R70 and R71, then the two records that each command writes. -/
theorem pairAndUnpair : Obligations.PairAndUnpair := by
  refine ⟨?_, ?_⟩
  · intro s a b seq i j holds first second idle twinned
    refine ⟨fun same => congrArg Host.Outcome.next ?_,
      fun other watched => congrArg Host.Outcome.next ?_,
      fun other left right taken => congrArg Host.Outcome.next ?_,
      fun other left right free free' => congrArg Host.Outcome.next ?_⟩
    · exact State.runSlotCommand_refuse holds rfl first .range (pairRule_same second same)
    · exact State.runSlotCommand_refuse holds rfl first .state (pairRule_watched second other watched)
    · exact State.runSlotCommand_refuse holds rfl first .state
        (pairRule_twinned second other ⟨left, right⟩ taken)
    · have paired : s.pairEffect i j = (s.setSlot i (twinned i j)).setSlot j (twinned j i) :=
        State.updSlot_updSlot_eq_setSlot fun same => absurd same other
      exact State.runSlotCommand_done holds rfl first
        ((pairRule_accepted second other ⟨left, right⟩ free free').trans
          (congrArg (CommandResult.done · []) paired))
  · intro s a seq i holds addressed idle alone
    refine ⟨fun single => congrArg Host.Outcome.next ?_, fun j twin =>
      ⟨fun watched => congrArg Host.Outcome.next ?_, fun left right => congrArg Host.Outcome.next ?_⟩⟩
    · exact State.runSlotCommand_refuse holds rfl addressed .state (unpairRule_single _ single)
    · exact State.runSlotCommand_refuse holds rfl addressed .state (unpairRule_watched _ twin watched)
    · exact State.runSlotCommand_done holds rfl addressed (unpairRule_accepted _ twin ⟨left, right⟩)

end Sys2Proof.Machine

namespace Sys2Proof.Machine

/-! ### Credits (R101, R102) -/

/-- A counter that is bumped goes up by one, saturating, and every other one stands (R102). -/
theorem Counters.get_bump (cap : Nat) (c : Counters) (name d : CounterName) :
    (c.bump cap name).get d = if d = name then min cap (c.get d + 1) else c.get d := by
  cases name <;> cases d <;> rfl

theorem SlotRecord.credit_self (r : SlotRecord) (c : CounterName) :
    (r.credit c).window.get c = min 65535 (r.window.get c + 1) ∧
    (r.credit c).totals.get c = min 4294967295 (r.totals.get c + 1) :=
  ⟨(Counters.get_bump _ _ c c).trans (if_pos rfl), (Counters.get_bump _ _ c c).trans (if_pos rfl)⟩

theorem SlotRecord.credit_other (r : SlotRecord) {c d : CounterName} (other : d ≠ c) :
    (r.credit c).window.get d = r.window.get d ∧ (r.credit c).totals.get d = r.totals.get d :=
  ⟨(Counters.get_bump _ _ c d).trans (if_neg other), (Counters.get_bump _ _ c d).trans (if_neg other)⟩

/-! ### The latency sample rule (R104, R105) -/

section Sampling

variable {r : SlotRecord}

theorem SlotRecord.sampleLatency_counted (x : Sample) (short : r.captureCount + 1 ≠ r.config.divisor) :
    r.sampleLatency x = { r with captureCount := r.captureCount + 1 } := if_neg short

theorem SlotRecord.sampleLatency_captured (x : Sample) (full : r.captureCount + 1 = r.config.divisor) :
    r.sampleLatency x = { r with captureCount := 0 }.pushSample x := if_pos full

theorem SlotRecord.pushSample_room (x : Sample) (room : r.latency.length < 4) :
    r.pushSample x = { r with latency := r.latency ++ [x] } := if_pos room

theorem SlotRecord.pushSample_full (x : Sample) (full : 4 ≤ r.latency.length) :
    r.pushSample x = { r with overflow := true } := if_neg (Nat.not_lt.mpr full)

end Sampling

/-- Settles O15: each counter of a credited record by name, and the sample rule by its two tests. -/
theorem creditsAndLatencySamples : Obligations.CreditsAndLatencySamples := by
  refine ⟨fun r c => ?_, fun r x => ⟨SlotRecord.sampleLatency_counted x, fun captured room => ?_,
    fun captured full => ?_⟩⟩
  · obtain ⟨window, totals⟩ := r.credit_self c
    exact ⟨window, totals, fun d other => r.credit_other other, rfl⟩
  · rw [SlotRecord.sampleLatency_captured x captured]
    exact SlotRecord.pushSample_room x room
  · rw [SlotRecord.sampleLatency_captured x captured]
    exact SlotRecord.pushSample_full x full

end Sys2Proof.Machine

namespace Sys2Proof.Machine

/-! ### ADMIT (R92) -/

/-- The accepting states (00_scope.md, Terms). -/
theorem SlotState.accepting_iff {st : SlotState} :
    st.accepting = true ↔ st = .probation ∨ st = .live ∨ st = .suspect := by
  cases st <;> decide

theorem SlotState.watched_of_accepting {st : SlotState} (accepting : st.accepting = true) :
    st.watched = true := by
  obtain rfl | rfl | rfl := SlotState.accepting_iff.mp accepting
  · rfl
  · rfl
  · rfl

section AdmitPark

variable {s : State} {i : SlotIndex} (c : CommandCopy)

theorem admitRule_elsewhere (elsewhere : s.mgmt.mode ≠ .watching) : admitRule s i c = .refuse .state :=
  if_pos elsewhere

theorem admitRule_watched (watched : ¬ s.Idle i) : admitRule s i c = .refuse .state := by
  unfold admitRule
  rw [if_pos (State.unwatched_eq_false_iff.mpr watched), ite_self]

theorem admitRule_accepted (watching : s.mgmt.mode = .watching) (idle : s.Idle i) :
    admitRule s i c = .done (s.enterProbation i .command) [] :=
  (if_neg (not_not_intro watching)).trans
    (if_neg (not_not_intro idle ∘ State.unwatched_eq_false_iff.mp))

/-! ### PARK (R93, R94) -/

theorem parkRule_vacant (vacant : (s.slot i).state = .vacant) : parkRule s i c = .refuse .state := by
  unfold parkRule
  rw [vacant]

theorem parkRule_idle (idle : (s.slot i).state = .parked ∨ (s.slot i).state = .draining) :
    parkRule s i c = .done s [] := by
  unfold parkRule
  obtain parked | draining := idle
  · rw [parked]
  · rw [draining]

theorem parkRule_accepting (accepting : (s.slot i).state.accepting = true) :
    parkRule s i c = .done (s.parkAccepting i) [] := by
  unfold parkRule
  obtain probation | live | suspect := SlotState.accepting_iff.mp accepting
  · rw [probation]
  · rw [live]
  · rw [suspect]

theorem parkRule_probed (fenced : (s.slot i).state = .fenced) (probed : (s.slot i).probeEntry = true) :
    parkRule s i c = .refuse .busy := by
  unfold parkRule
  rw [fenced]
  exact if_pos probed

theorem parkRule_fenced (fenced : (s.slot i).state = .fenced) (free : (s.slot i).probeEntry = false) :
    parkRule s i c = .done (s.parkFenced i) [] := by
  unfold parkRule
  rw [fenced]
  exact if_neg (by simp [free])

end AdmitPark

/-- An accepting slot without an entry and without a pending fence is PARKED at once (R93). -/
theorem State.parkAccepting_empty {s : State} {i : SlotIndex}
    (empty : (s.slot i).requestCount = 0 ∧ (s.slot i).probeEntry = false ∧
      (s.slot i).fencePending = false) : s.parkAccepting i = s.enterParked i .command := by
  obtain ⟨count, flag, released⟩ := empty
  exact if_pos ⟨SlotRecord.noEntry_iff.mpr ⟨count, flag⟩, released⟩

/-- An accepting slot with an entry or with a pending fence drains (R93). -/
theorem State.parkAccepting_busy {s : State} {i : SlotIndex}
    (busy : (s.slot i).requestCount ≠ 0 ∨ (s.slot i).probeEntry = true ∨
      (s.slot i).fencePending = true) : s.parkAccepting i = s.changeState i .draining .command := by
  refine if_neg ?_
  rintro ⟨empty, released⟩
  obtain ⟨count, flag⟩ := SlotRecord.noEntry_iff.mp empty
  simp [count, flag, released] at busy

/-- PARK of a FENCED slot: its sources and its pending fence cleared, the slot PARKED (R94). -/
theorem State.parkFenced_eq (s : State) (i : SlotIndex) : s.parkFenced i =
    (s.setSlot i { s.slot i with
      state := .parked, lostTags := [], manual := false, verdict := false,
      fencePending := false }).queueAlert
      (.slotState (s.slotAddr i) (s.slot i).state .parked .command) := by
  unfold State.parkFenced State.enterParked
  rw [State.updSlot_updSlot, State.slot_updSlot_self]
  rfl

/-- Settles O45: each rule by the mode and the slot's state, and the record that it writes. -/
theorem admitAndPark : Obligations.AdmitAndPark := by
  refine ⟨?_, ?_⟩
  · intro s a seq i holds addressed
    refine ⟨fun elsewhere => congrArg Host.Outcome.next ?_,
      fun notVacant notParked => congrArg Host.Outcome.next ?_,
      fun watching idle => congrArg Host.Outcome.next ?_⟩
    · exact State.runSlotCommand_refuse holds rfl addressed .state (admitRule_elsewhere _ elsewhere)
    · exact State.runSlotCommand_refuse holds rfl addressed .state
        (admitRule_watched _ (not_or_intro notVacant notParked))
    · exact State.runSlotCommand_done holds rfl addressed (admitRule_accepted _ watching idle)
  · intro s a seq i holds addressed r changed
    refine ⟨fun vacant => congrArg Host.Outcome.next ?_, fun idle => congrArg Host.Outcome.next ?_,
      fun serving => ?_, fun fenced => ⟨fun probed => congrArg Host.Outcome.next ?_,
        fun free => congrArg Host.Outcome.next ?_⟩⟩
    · exact State.runSlotCommand_refuse holds rfl addressed .state (parkRule_vacant _ vacant)
    · exact State.runSlotCommand_done holds rfl addressed (parkRule_idle _ idle)
    · have accepted := parkRule_accepting ⟨[0x0F, a], seq, .own⟩ (SlotState.accepting_iff.mpr serving)
      refine ⟨fun empty => congrArg Host.Outcome.next ?_, fun busy => congrArg Host.Outcome.next ?_⟩
      · rw [State.parkAccepting_empty empty] at accepted
        exact State.runSlotCommand_done holds rfl addressed accepted
      · rw [State.parkAccepting_busy busy] at accepted
        exact State.runSlotCommand_done holds rfl addressed accepted
    · exact State.runSlotCommand_refuse holds rfl addressed .busy (parkRule_probed _ fenced probed)
    · have accepted := parkRule_fenced ⟨[0x0F, a], seq, .own⟩ fenced free
      rw [State.parkFenced_eq] at accepted
      exact State.runSlotCommand_done holds rfl addressed accepted

end Sys2Proof.Machine

namespace Sys2Proof.Machine

/-! ### FENCE (R134, R136) -/

/-- A slot whose fence gate takes effect: in an accepting state or DRAINING (R134). -/
abbrev SlotState.Gated (st : SlotState) : Prop := st.accepting = true ∨ st = .draining

theorem SlotState.Gated.watched {st : SlotState} (gated : st.Gated) : st.watched = true := by
  obtain accepting | rfl := gated
  · exact SlotState.watched_of_accepting accepting
  · rfl

theorem SlotState.Gated.ne_fenced {st : SlotState} (gated : st.Gated) : st ≠ .fenced := by
  rintro rfl
  obtain accepting | draining := gated
  · cases accepting
  · cases draining

theorem SlotState.unwatched_iff {st : SlotState} :
    st.unwatched = true ↔ st = .vacant ∨ st = .parked := by
  cases st <;> decide

section FenceUnfence

variable {s : State} {i : SlotIndex} (c : CommandCopy)

theorem fenceRule_unwatched (idle : (s.slot i).state = .vacant ∨ (s.slot i).state = .parked) :
    fenceRule s i c = .refuse .state := if_pos (SlotState.unwatched_iff.mpr idle)

theorem fenceRule_watched (watched : (s.slot i).state.watched = true) :
    fenceRule s i c = .done (s.setManual i) [] := if_neg (by simp [SlotState.unwatched, watched])

/-- On a FENCED slot FENCE sets the source alone (R134). -/
theorem State.setManual_fenced (fenced : (s.slot i).state = .fenced) :
    s.setManual i = s.setSlot i { s.slot i with manual := true } :=
  State.gateEffect_fenced (by rwa [State.slot_updSlot_self])

theorem State.gateEffect_gated_immediate (gated : (s.slot i).state.Gated)
    (gate : (s.slot i).config.gate = .immediate) : s.gateEffect i = s.enterFenced i := by
  unfold State.gateEffect
  rw [if_pos gated, gate]

theorem State.gateEffect_gated_boundary (gated : (s.slot i).state.Gated)
    (gate : (s.slot i).config.gate = .boundary) :
    s.gateEffect i = s.setSlot i { s.slot i with fencePending := true } := by
  unfold State.gateEffect
  rw [if_pos gated, gate]
  rfl

/-- Under gate IMMEDIATE FENCE fences at once (R134). -/
theorem State.setManual_gated_immediate (gated : (s.slot i).state.Gated)
    (gate : (s.slot i).config.gate = .immediate) :
    s.setManual i = (s.setSlot i { s.slot i with manual := true }).enterFenced i :=
  State.gateEffect_gated_immediate (by rwa [State.slot_updSlot_self])
    (by rwa [State.slot_updSlot_self])

/-- Under gate BOUNDARY FENCE makes a fence pending (R134). -/
theorem State.setManual_gated_boundary (gated : (s.slot i).state.Gated)
    (gate : (s.slot i).config.gate = .boundary) :
    s.setManual i = s.setSlot i { s.slot i with manual := true, fencePending := true } := by
  unfold State.setManual
  rw [State.gateEffect_gated_boundary (by rwa [State.slot_updSlot_self])
    (by rwa [State.slot_updSlot_self]), State.slot_updSlot_self]
  exact State.setSlot_setSlot s i _ _

/-! ### UNFENCE (R137) -/

theorem unfenceRule_fenced (fenced : (s.slot i).state = .fenced) :
    unfenceRule s i c = .done (s.enterProbation i .command) [] := by
  unfold unfenceRule
  rw [fenced]

/-- UNFENCE of an accepting slot (R137). -/
theorem unfenceRule_accepting (accepting : (s.slot i).state.accepting = true) :
    unfenceRule s i c = if (s.slot i).fencePending = true
      then .done (s.setSlot i (s.slot i).clearFence) [] else .refuse .state := by
  unfold unfenceRule
  obtain probation | live | suspect := SlotState.accepting_iff.mp accepting
  · rw [probation]
    rfl
  · rw [live]
    rfl
  · rw [suspect]
    rfl

/-- UNFENCE of a DRAINING slot, whose drain may end with it (R95, R137). -/
theorem unfenceRule_draining (draining : (s.slot i).state = .draining) :
    unfenceRule s i c = if (s.slot i).fencePending = true
      then .done ((s.setSlot i (s.slot i).clearFence).settleDrain i) [] else .refuse .state := by
  unfold unfenceRule
  rw [draining]
  rfl

/-- Without a pending fence UNFENCE refuses every slot that is not FENCED (R137). -/
theorem unfenceRule_released (gated : (s.slot i).state.Gated) (released : (s.slot i).fencePending = false) :
    unfenceRule s i c = .refuse .state := by
  have none : ¬ (s.slot i).fencePending = true := by simp [released]
  obtain accepting | draining := gated
  · exact (unfenceRule_accepting c accepting).trans (if_neg none)
  · exact (unfenceRule_draining c draining).trans (if_neg none)

theorem unfenceRule_unwatched (idle : (s.slot i).state = .parked ∨ (s.slot i).state = .vacant) :
    unfenceRule s i c = .refuse .state := by
  unfold unfenceRule
  obtain parked | vacant := idle
  · rw [parked]
  · rw [vacant]

/-- A DRAINING slot with an entry goes on draining when its fence is cleared (R95). -/
theorem State.settleDrain_clearFence_busy
    (busy : (s.slot i).requestCount ≠ 0 ∨ (s.slot i).probeEntry = true) :
    (s.setSlot i (s.slot i).clearFence).settleDrain i = s.setSlot i (s.slot i).clearFence := by
  refine State.settleDrain_stands ?_
  rw [State.slot_setSlot_self]
  rintro ⟨_, count, flag, _⟩
  have flag : (s.slot i).probeEntry = false := flag
  exact busy.elim (fun h => h count) (by simp [flag])

/-- The drain of a slot without an entry ends when its fence is cleared (R95). -/
theorem State.settleDrain_clearFence_empty (draining : (s.slot i).state = .draining)
    (count : (s.slot i).requestCount = 0) (flag : (s.slot i).probeEntry = false) :
    (s.setSlot i (s.slot i).clearFence).settleDrain i =
      (s.setSlot i (s.slot i).clearFence.toParked).queueAlert
        (.slotState (s.slotAddr i) .draining .parked .drained) := by
  rw [State.settleDrain_parks (by rw [State.slot_setSlot_self]; exact ⟨draining, count, flag, rfl⟩),
    State.slot_setSlot_self, State.setSlot_setSlot]
  rfl

/-- UNFENCE of a FENCED slot: its sources are cleared as it enters PROBATION (R91, R137). -/
theorem State.enterProbation_of_fenced (fenced : (s.slot i).state = .fenced) (cause : SlotCause) :
    s.enterProbation i cause = (s.setSlot i (s.slot i).toProbation).queueAlert
      (.slotState (s.slotAddr i) .fenced .probation cause) := by
  unfold State.enterProbation
  rw [fenced]
  rfl

end FenceUnfence

/-- Settles O46: FENCE by the slot's state and gate, UNFENCE by its state and pending fence. -/
theorem fenceAndUnfence : Obligations.FenceAndUnfence := by
  refine ⟨?_, ?_⟩
  · intro s a seq i holds addressed r manual
    have accepted (watched : r.state.watched = true) {t : State} (effect : s.setManual i = t) :
        exec .fence s = .next (t.answered 0x10 seq .own []) :=
      congrArg Host.Outcome.next (State.runSlotCommand_done holds rfl addressed
        ((fenceRule_watched _ watched).trans (congrArg (CommandResult.done · []) effect)))
    refine ⟨fun idle => congrArg Host.Outcome.next ?_, fun fenced => ?_, fun gated =>
      ⟨fun gate => ?_, fun gate => ?_⟩⟩
    · exact State.runSlotCommand_refuse holds rfl addressed .state (fenceRule_unwatched _ idle)
    · exact accepted (by rw [fenced]; rfl) (State.setManual_fenced fenced)
    · exact accepted (SlotState.Gated.watched gated) (State.setManual_gated_immediate gated gate)
    · exact accepted (SlotState.Gated.watched gated) (State.setManual_gated_boundary gated gate)
  · intro s a seq i holds addressed r done cleared withSlot
    have accepted {t : State} (rule : unfenceRule s i ⟨[0x11, a], seq, .own⟩ = .done t []) :
        exec .unfence s = .next (t.answered 0x11 seq .own []) :=
      congrArg Host.Outcome.next (State.runSlotCommand_done holds rfl addressed rule)
    have refused (rule : unfenceRule s i ⟨[0x11, a], seq, .own⟩ = .refuse .state) :
        exec .unfence s = .next (s.turnedAway 0x11 seq .own 2) :=
      congrArg Host.Outcome.next (State.runSlotCommand_refuse holds rfl addressed .state rule)
    refine ⟨fun fenced => accepted ?_, fun accepting pending => accepted ?_, fun draining pending => ?_,
      fun gated released => refused (unfenceRule_released _ gated released),
      fun idle => refused (unfenceRule_unwatched _ idle)⟩
    · rw [unfenceRule_fenced _ fenced, State.enterProbation_of_fenced fenced]
      rfl
    · exact (unfenceRule_accepting _ accepting).trans (if_pos pending)
    · have rule := (unfenceRule_draining ⟨[0x11, a], seq, .own⟩ draining).trans (if_pos pending)
      refine ⟨fun busy => accepted ?_, fun count flag => accepted ?_⟩
      · rwa [State.settleDrain_clearFence_busy busy] at rule
      · rwa [State.settleDrain_clearFence_empty draining count flag] at rule

end Sys2Proof.Machine

namespace Sys2Proof.Machine

/-! ### The fields of CONFIGURE_SLOT (R87, R198) -/

/-- A field that a byte of 0 or 1 selects, any other byte being out of range (R198; log entry 17). -/
theorem twoValued_eq_some {α : Type} {b : Byte} {x y z : α} :
    (if b.toNat = 0 then some x else if b.toNat = 1 then some y else none) = some z ↔
      b.toNat ≤ 1 ∧ z = if b = 1 then y else x := by
  by_cases zero : b = 0
  · subst zero
    simp [eq_comm]
  · by_cases one : b = 1
    · subst one
      simp [eq_comm]
    · have large : ¬ b.toNat ≤ 1 := by bv_omega
      rw [if_neg (by omega), if_neg (by omega)]
      simp [large]

theorem boolField_eq_some {b : Byte} {x : Bool} :
    boolField b.toNat = some x ↔ b.toNat ≤ 1 ∧ x = if b = 1 then true else false := twoValued_eq_some

theorem gateField_eq_some {b : Byte} {g : FenceGate} :
    gateField b.toNat = some g ↔ b.toNat ≤ 1 ∧ g = if b = 1 then .boundary else .immediate :=
  twoValued_eq_some

theorem optField_eq_some {b : Byte} {v : Nat} {o : Option Nat} :
    optField b.toNat v = some o ↔ b.toNat ≤ 1 ∧ o = if b = 1 then some v else none := twoValued_eq_some

theorem setField_of_lt {n : Nat} (h : n < 4) : setField n = some ⟨n, h⟩ := dif_pos h

theorem lt_of_setField {n : Nat} {k : Fin 4} (h : setField n = some k) : n < 4 := by
  by_contra large
  cases (dif_neg large).symm.trans h

theorem State.slotIndex?_eq_some {s : State} {a : Byte} {j : SlotIndex} :
    s.slotIndex? a.toNat = some j ↔ s.Addresses a j := by
  refine ⟨fun found => ?_, State.slotIndex?_of_addresses⟩
  obtain outside | ⟨k, addressed⟩ := s.outsideRange_or_addresses a
  · rw [State.slotIndex?_of_outside outside] at found
    cases found
  · rw [State.slotIndex?_of_addresses addressed] at found
    exact Option.some.inj found ▸ addressed

theorem State.standInField_absent (s : State) (i : SlotIndex) (v : Nat) :
    s.standInField i (0 : Byte).toNat v = some none := rfl

theorem State.standInField_present (s : State) (i : SlotIndex) (v : Nat) :
    s.standInField i (1 : Byte).toNat v =
      (s.slotIndex? v).bind fun j => if j = i then none else some (some j) := by
  have present : optField (1 : Byte).toNat v = some (some v) := rfl
  unfold State.standInField
  rw [present]
  dsimp only
  cases s.slotIndex? v with
  | none => rfl
  | some j => rfl

theorem State.standInField_unread {s : State} {i : SlotIndex} {sp : Byte} {v : Nat}
    (large : ¬ sp.toNat ≤ 1) : s.standInField i sp.toNat v = none := by
  have unread : optField sp.toNat v = none :=
    Option.eq_none_iff_forall_ne_some.mpr fun _ read => large (optField_eq_some.mp read).1
  unfold State.standInField
  rw [unread]

/-- The stand-in parameter: absent, or the address of another slot of the watch range (R87). -/
theorem State.standInField_eq_some {s : State} {i : SlotIndex} {sp sa : Byte} {o : Option SlotIndex} :
    s.standInField i sp.toNat sa.toNat = some o ↔
      (sp = 0 ∧ o = none) ∨ (sp = 1 ∧ ∃ j, s.Addresses sa j ∧ j ≠ i ∧ o = some j) := by
  by_cases zero : sp = 0
  · subst zero
    rw [State.standInField_absent]
    simp [eq_comm]
  · by_cases one : sp = 1
    · subst one
      rw [State.standInField_present, Option.bind_eq_some_iff]
      simp only [State.slotIndex?_eq_some, Option.ite_none_left_eq_some, Option.some_inj]
      simp [eq_comm]
    · rw [State.standInField_unread (by bv_omega)]
      have absent : ¬ sp = 0#8 := zero
      have present : ¬ sp = 1#8 := one
      simp [absent, present]

section Configuration

variable {s : State} {i : SlotIndex} {standIn : Option SlotIndex}
  {a ceil ramp step set gate restore div sp sa dp d3 d2 d1 d0 auto : Byte}

/-- The parameters of CONFIGURE_SLOT for slot `i` within their ranges (R87; log entry 17). -/
def State.ConfigBytesInRange (s : State) (i : SlotIndex)
    (ceil ramp step set gate restore div sp sa dp auto : Byte) : Prop :=
  ceil ≠ 0 ∧ ramp ≠ 0 ∧ ramp.toNat ≤ ceil.toNat ∧ step ≠ 0 ∧ set.toNat < 4 ∧ gate.toNat ≤ 1 ∧
    restore.toNat ≤ 1 ∧ (div = 1 ∨ div = 4 ∨ div = 16 ∨ div = 64) ∧
    (sp = 0 ∨ (sp = 1 ∧ ∃ j, s.Addresses sa j ∧ j ≠ i)) ∧ dp.toNat ≤ 1 ∧ auto.toNat ≤ 1

/-- The ten fields that the bytes spell, once the structured ones are read (R87). -/
def configOfBytes (ceil ramp step div : Byte) (set : Fin 4) (gate : FenceGate) (restore : Bool)
    (standIn : Option SlotIndex) (digest : Option Nat) (auto : Bool) (twin : Option SlotIndex) :
    SlotConfig :=
  { ceiling := ceil.toNat, rampStart := ramp.toNat, rampStep := step.toNat, policySet := set,
    gate := gate, autoRestore := restore, divisor := div.toNat, standIn := standIn,
    probeDigest := digest.map (BitVec.ofNat 32), autoAdmit := auto, twin := twin, configured := true }

theorem divisor_bytes :
    div.toNat ∈ [1, 4, 16, 64] ↔ (div = 1 ∨ div = 4 ∨ div = 16 ∨ div = 64) := by
  simp only [List.mem_cons, List.not_mem_nil, or_false]
  bv_omega

theorem configOfBytes_inRange {k : Fin 4} {g : FenceGate} {r : Bool} {digest : Option Nat} {x : Bool} :
    (configOfBytes ceil ramp step div k g r standIn digest x none).inRange i = true ↔
      ceil ≠ 0 ∧ ramp ≠ 0 ∧ ramp.toNat ≤ ceil.toNat ∧ step ≠ 0 ∧
        (div = 1 ∨ div = 4 ∨ div = 16 ∨ div = 64) ∧ standIn ≠ some i := by
  have := ceil.isLt
  have := step.isLt
  rw [SlotConfig.inRange_iff, byte_ne_zero_iff, byte_ne_zero_iff, byte_ne_zero_iff, ← divisor_bytes]
  simp only [configOfBytes]
  refine ⟨?_, ?_⟩
  · rintro ⟨⟨ceiling, _⟩, ⟨start, bounded⟩, ⟨up, _⟩, divisor, other, _⟩
    exact ⟨ceiling, start, bounded, up, divisor, other⟩
  · rintro ⟨ceiling, start, bounded, up, divisor, other⟩
    exact ⟨⟨ceiling, by omega⟩, ⟨start, bounded⟩, ⟨up, by omega⟩, divisor, other, nofun⟩

/-- The parameters of CONFIGURE_SLOT as their bytes spell them (R87, R198). -/
theorem State.parseConfig_bytes (twin : Option SlotIndex) :
    s.parseConfig i twin [a, ceil, ramp, step, set, gate, restore, div, sp, sa, dp, d3, d2, d1, d0, auto] =
      (setField set.toNat).bind fun k => (gateField gate.toNat).bind fun g =>
        (boolField restore.toNat).bind fun r => (s.standInField i sp.toNat sa.toNat).bind fun j =>
          (optField dp.toNat (fromBE [d3, d2, d1, d0])).bind fun d =>
            (boolField auto.toNat).bind fun x =>
              if (configOfBytes ceil ramp step div k g r j d x none).inRange i = true then
                some (configOfBytes ceil ramp step div k g r j d x twin)
              else none := rfl

/-- The stand-in parameter that is in range is the one named (R87). -/
theorem State.standInField_named (inRange : sp = 0 ∨ (sp = 1 ∧ ∃ j, s.Addresses sa j ∧ j ≠ i))
    (named : (sp = 0 ∧ standIn = none) ∨ (sp = 1 ∧ ∃ j, s.Addresses sa j ∧ standIn = some j)) :
    s.standInField i sp.toNat sa.toNat = some standIn := by
  rw [State.standInField_eq_some]
  obtain absent | ⟨present, j, addressed, rfl⟩ := named
  · exact .inl absent
  · obtain zero | ⟨_, k, addressed', other⟩ := inRange
    · rw [zero] at present
      cases present
    · have same : k = j := Option.some.inj
        ((State.slotIndex?_of_addresses addressed').symm.trans (State.slotIndex?_of_addresses addressed))
      exact .inr ⟨present, j, addressed, same ▸ other, rfl⟩

theorem State.parseConfig_good (twin : Option SlotIndex)
    (inRange : s.ConfigBytesInRange i ceil ramp step set gate restore div sp sa dp auto)
    (named : (sp = 0 ∧ standIn = none) ∨ (sp = 1 ∧ ∃ j, s.Addresses sa j ∧ standIn = some j))
    (hs : set.toNat < 4) :
    s.parseConfig i twin [a, ceil, ramp, step, set, gate, restore, div, sp, sa, dp, d3, d2, d1, d0, auto] =
      some (configOfBytes ceil ramp step div ⟨set.toNat, hs⟩
        (if gate = 1 then .boundary else .immediate) (if restore = 1 then true else false) standIn
        (if dp = 1 then some (fromBE [d3, d2, d1, d0]) else none) (if auto = 1 then true else false)
        twin) := by
  obtain ⟨ceiling, start, bounded, up, _, gates, restores, divisor, stands, digests, autos⟩ := inRange
  have stand := State.standInField_named stands named
  have other : standIn ≠ some i := by
    obtain ⟨_, rfl⟩ | ⟨_, j, _, other, rfl⟩ := State.standInField_eq_some.mp stand
    · nofun
    · exact fun same => other (Option.some.inj same)
  rw [State.parseConfig_bytes, setField_of_lt hs, gateField_eq_some.mpr ⟨gates, rfl⟩,
    boolField_eq_some.mpr ⟨restores, rfl⟩, stand, optField_eq_some.mpr ⟨digests, rfl⟩,
    boolField_eq_some.mpr ⟨autos, rfl⟩]
  exact if_pos (configOfBytes_inRange.mpr ⟨ceiling, start, bounded, up, divisor, other⟩)

theorem State.parseConfig_bad (twin : Option SlotIndex)
    (bad : ¬ s.ConfigBytesInRange i ceil ramp step set gate restore div sp sa dp auto) :
    s.parseConfig i twin [a, ceil, ramp, step, set, gate, restore, div, sp, sa, dp, d3, d2, d1, d0, auto] =
      none := by
  refine Option.eq_none_iff_forall_ne_some.mpr fun c parsed => bad ?_
  rw [State.parseConfig_bytes] at parsed
  simp only [Option.bind_eq_some_iff] at parsed
  obtain ⟨k, sets, g, gates, r, restores, j, stands, d, digests, x, autos, parsed⟩ := parsed
  have inRange := (Option.ite_none_right_eq_some.mp parsed).1
  obtain ⟨ceiling, start, bounded, up, divisor, _⟩ := configOfBytes_inRange.mp inRange
  refine ⟨ceiling, start, bounded, up, lt_of_setField sets, (gateField_eq_some.mp gates).1,
    (boolField_eq_some.mp restores).1, divisor, ?_, (optField_eq_some.mp digests).1,
    (boolField_eq_some.mp autos).1⟩
  obtain ⟨absent, _⟩ | ⟨present, j, addressed, other, _⟩ := State.standInField_eq_some.mp stands
  · exact .inl absent
  · exact .inr ⟨present, j, addressed, other⟩

/-- A digest of four bytes, most significant first (R1). -/
theorem ofNat_fromBE_digest : BitVec.ofNat 32 (fromBE [d3, d2, d1, d0]) = d3 ++ d2 ++ d1 ++ d0 := by
  have := d3.isLt
  have := d2.isLt
  have := d1.isLt
  have := d0.isLt
  apply BitVec.eq_of_toNat_eq
  rw [BitVec.toNat_append, ← Nat.shiftLeft_add_eq_or_of_lt d0.isLt, BitVec.toNat_append,
    ← Nat.shiftLeft_add_eq_or_of_lt d1.isLt, BitVec.toNat_append,
    ← Nat.shiftLeft_add_eq_or_of_lt d2.isLt, BitVec.toNat_ofNat]
  simp only [fromBE, List.foldl_cons, List.foldl_nil, Nat.shiftLeft_eq]
  omega

theorem configureRule_bad {c : CommandCopy} (bad : s.parseConfig i (s.slot i).config.twin c.params = none) :
    configureRule s i c = .refuse .range := by
  unfold configureRule
  rw [bad]

theorem configureRule_good {c : CommandCopy} {cfg : SlotConfig}
    (good : s.parseConfig i (s.slot i).config.twin c.params = some cfg) :
    configureRule s i c = .done (s.setSlot i ((s.slot i).configure cfg)) [] := by
  unfold configureRule
  rw [good]
  rfl

/-- The configuration that parameters in range spell (R87). -/
theorem configOfBytes_eq {k : Fin 4} {twin : Option SlotIndex} (gates : gate.toNat ≤ 1) :
    configOfBytes ceil ramp step div k (if gate = 1 then .boundary else .immediate)
      (if restore = 1 then true else false) standIn
      (if dp = 1 then some (fromBE [d3, d2, d1, d0]) else none) (if auto = 1 then true else false) twin =
    { ceiling := ceil.toNat, rampStart := ramp.toNat, rampStep := step.toNat, policySet := k,
      gate := if gate = 0 then .immediate else .boundary, autoRestore := decide (restore = 1),
      divisor := div.toNat, standIn := standIn,
      probeDigest := if dp = 1 then some (d3 ++ d2 ++ d1 ++ d0) else none,
      autoAdmit := decide (auto = 1), twin := twin, configured := true } := by
  have gated : (if gate = 1 then FenceGate.boundary else .immediate) =
      if gate = 0 then .immediate else .boundary := by
    obtain rfl | rfl : gate = 0 ∨ gate = 1 := by bv_omega
    · rfl
    · rfl
  unfold configOfBytes
  rw [gated, apply_ite (Option.map _), Option.map_some, ofNat_fromBE_digest]
  simp

end Configuration

/-- Settles O49: the bytes are read and judged, then the record is configured. -/
theorem configureSlot : Obligations.ConfigureSlot := by
  intro s seq a ceil ramp step set gate restore div sp sa dp d3 d2 d1 d0 auto i holds addressed r inRange
  refine ⟨fun bad => congrArg Host.Outcome.next ?_, fun standIn good named hs =>
    congrArg Host.Outcome.next ?_⟩
  · exact State.runSlotCommand_refuse holds rfl addressed .range
      (configureRule_bad (State.parseConfig_bad _ bad))
  · have parsed := State.parseConfig_good (a := a) (d3 := d3) (d2 := d2) (d1 := d1) (d0 := d0)
      (s.slot i).config.twin good named hs
    obtain ⟨_, _, _, _, _, gates, _⟩ := good
    rw [configOfBytes_eq gates] at parsed
    exact State.runSlotCommand_done holds rfl addressed (configureRule_good parsed)

end Sys2Proof.Machine

namespace Sys2Proof.Machine

/-! ### SLOT_STATUS (R108) -/

theorem mul_boolCode (n : Nat) (b : Bool) : n * boolCode b = if b = true then n else 0 := by
  cases b
  · exact Nat.mul_zero n
  · exact Nat.mul_one n

theorem SlotRecord.sourceByte_eq (r : SlotRecord) : r.sourceByte =
    (if r.manual = true then 1 else 0) + if r.verdict = true then 2 else 0 :=
  congrArg (boolCode r.manual + ·) (mul_boolCode 2 r.verdict)

theorem PerKind.flagByte_eq (p : PerKind Bool) : p.flagByte =
    (if p.stall = true then 1 else 0) + (if p.missRun = true then 2 else 0) +
      (if p.lateRun = true then 4 else 0) + (if p.strayRun = true then 8 else 0) +
      (if p.diverge = true then 16 else 0) + (if p.straggle = true then 32 else 0) +
      if p.probeFail = true then 64 else 0 := by
  unfold PerKind.flagByte
  simp only [mul_boolCode]
  rfl

/-- The byte that addresses a slot is the slot address that replies carry (R198). -/
theorem State.be8_slotAddr {s : State} {a : Byte} {i : SlotIndex} (addressed : s.Addresses a i) :
    be8 (s.slotAddr i) = [a] := by
  unfold State.slotAddr be8
  rw [addressed, BitVec.ofNat_toNat, BitVec.setWidth_eq]

/-! ### READ_SAMPLE (R106) -/

theorem be8_boolCode (b : Bool) : be8 (boolCode b) = [if b = true then 1 else 0] := by
  cases b <;> rfl

section ReadSample

variable {s : State} {i : SlotIndex} (c : CommandCopy)

theorem readSampleRule_empty (empty : (s.slot i).latency = []) :
    readSampleRule s i c =
      .done s [0, 0, 0, 0, 0, if (s.slot i).overflow = true then 1 else 0] := by
  unfold readSampleRule
  dsimp only
  rw [empty, be8_boolCode]
  rfl

/-- A read that empties the FIFO clears the overflow flag (R106). -/
theorem SlotRecord.afterRead_eq (r : SlotRecord) (rest : List Sample) :
    r.afterRead rest =
      { r with latency := rest, overflow := if rest = [] then false else r.overflow } := by
  unfold SlotRecord.afterRead
  cases rest with
  | nil => rw [List.isEmpty_nil, Bool.not_true, Bool.and_false, if_pos rfl]
  | cons x rest => rw [List.isEmpty_cons, Bool.not_false, Bool.and_true, if_neg (by simp)]

theorem readSampleRule_cons {x : Sample} {rest : List Sample}
    (samples : (s.slot i).latency = x :: rest) :
    readSampleRule s i c = .done (s.setSlot i ((s.slot i).afterRead rest))
      ([1] ++ be16 x.latency ++ be8 x.cls.toNat ++
        [if x.late = true then 1 else 0, if (s.slot i).overflow = true then 1 else 0] ++
        be8 rest.length) := by
  unfold readSampleRule
  dsimp only
  rw [samples]
  dsimp only
  rw [be8_boolCode, be8_boolCode]
  rfl

end ReadSample

/-- Settles O50: the figures field by field, and the read by whether the FIFO is empty. -/
theorem slotStatusAndReadSample : Obligations.SlotStatusAndReadSample := by
  refine ⟨?_, ?_⟩
  · intro s a seq i holds addressed r bit
    refine congrArg Host.Outcome.next (State.runSlotCommand_done holds rfl addressed
      (congrArg (CommandResult.done _) ?_))
    unfold State.slotFigures
    rw [State.be8_slotAddr addressed]
    dsimp only
    rw [SlotRecord.sourceByte_eq, PerKind.flagByte_eq]
    rfl
  · intro s a seq i holds addressed r flag
    refine ⟨fun empty => congrArg Host.Outcome.next ?_,
      fun x rest samples => congrArg Host.Outcome.next ?_⟩
    · exact State.runSlotCommand_done holds rfl addressed (readSampleRule_empty _ empty)
    · have accepted := readSampleRule_cons ⟨[0x17, a], seq, .own⟩ samples
      rw [SlotRecord.afterRead_eq] at accepted
      exact State.runSlotCommand_done holds rfl addressed accepted

end Sys2Proof.Machine

namespace Sys2Proof.Machine

/-! ### The records at a CLAIM (R91, R97) -/

/-- A slot that a CLAIM admits: PARKED with auto-admit on (R97). -/
def SlotRecord.claimable (r : SlotRecord) : Bool := decide (r.state = .parked) && r.config.autoAdmit

/-- The record that a CLAIM leaves of `r` (R91, R97). -/
def SlotRecord.atClaim (r : SlotRecord) : SlotRecord := if r.claimable = true then r.toProbation else r

theorem SlotRecord.claimable_iff {r : SlotRecord} :
    r.claimable = true ↔ r.state = .parked ∧ r.config.autoAdmit = true := by
  simp [SlotRecord.claimable]

section ClaimSlot

variable {s : State} {i : SlotIndex}

theorem State.claimSlot_admitted (admitted : (s.slot i).claimable = true) :
    s.claimSlot i = (s.updSlot i SlotRecord.toProbation).queueAlert
      (.slotState (s.slotAddr i) .parked .probation .claim) := by
  obtain ⟨parked, auto⟩ := SlotRecord.claimable_iff.mp admitted
  unfold State.claimSlot State.enterProbation
  rw [if_pos ⟨parked, auto⟩, parked]

theorem State.claimSlot_other (other : ¬ (s.slot i).claimable = true) : s.claimSlot i = s :=
  if_neg (mt SlotRecord.claimable_iff.mpr other)

end ClaimSlot

theorem State.slot_claimSlot (s : State) (i j : SlotIndex) :
    (s.claimSlot i).slot j = if i = j then (s.slot i).atClaim else s.slot j := by
  unfold SlotRecord.atClaim
  by_cases admitted : (s.slot i).claimable = true
  · rw [State.claimSlot_admitted admitted, State.queueAlert_slot, State.slot_updSlot, if_pos admitted]
  · rw [State.claimSlot_other admitted, if_neg admitted]
    split
    · subst_vars
      rfl
    · rfl

theorem State.claimSlot_table (s : State) (i : SlotIndex) : (s.claimSlot i).table = s.table := by
  by_cases admitted : (s.slot i).claimable = true
  · rw [State.claimSlot_admitted admitted, State.queueAlert_table, State.updSlot_table]
  · rw [State.claimSlot_other admitted]

theorem State.AlertsOnly.claimSlot (s : State) (i : SlotIndex) : s.AlertsOnly (s.claimSlot i) := by
  by_cases admitted : (s.slot i).claimable = true
  · rw [State.claimSlot_admitted admitted]
    exact State.AlertsOnly.queueAlert (s.updSlot i SlotRecord.toProbation) _
  · rw [State.claimSlot_other admitted]
    exact .refl s

/-- Work on every slot of a list that leaves the table each time leaves it. -/
theorem foldl_table {f : State → SlotIndex → State} (h : ∀ s i, (f s i).table = s.table)
    (l : List SlotIndex) (s : State) : (l.foldl f s).table = s.table := by
  induction l generalizing s with
  | nil => rfl
  | cons i l ih => exact (ih _).trans (h s i)

/-! ### The effect of CLAIM (R204) -/

/-- The claim timer stopped and the mode WATCHING, with its alert: what a CLAIM begins with (R204). -/
def State.claimed (s : State) : State := (s.setClaimTimer none).changeMode .watching

theorem State.claimEffect_watching {s : State} (watching : s.mgmt.mode = .watching) :
    s.claimEffect = s := if_pos watching

theorem State.claimEffect_elsewhere {s : State} (elsewhere : s.mgmt.mode ≠ .watching) :
    s.claimEffect = allSlots.foldl State.claimSlot s.claimed := if_neg elsewhere

section Claim

variable {s : State} (elsewhere : s.mgmt.mode ≠ .watching)

include elsewhere

/-- CLAIM changes of the blocks the slot records, the alerts, the mode and the claim timer alone (R204). -/
theorem State.claimEffect_blocks : s.claimEffect = { s with
    slots := s.claimEffect.slots
    report := { s.report with
      outbox := s.claimEffect.report.outbox, lostCount := s.claimEffect.report.lostCount }
    mgmt := { s.mgmt with
      mode := .watching, claimTimer := none, flags := s.claimEffect.mgmt.flags } } := by
  rw [State.claimEffect_elsewhere elsewhere]
  generalize effect : allSlots.foldl State.claimSlot s.claimed = t
  have work := (SlotWork.changeMode (s.setClaimTimer none) .watching).trans
    (SlotWork.foldl _ SlotWork.claimSlot allSlots s.claimed)
  have report : s.AlertsOnly (allSlots.foldl State.claimSlot s.claimed) :=
    ((State.AlertsOnly.of_report rfl).trans (.changeMode (s.setClaimTimer none) .watching)).trans
      (.foldl _ .claimSlot allSlots _)
  have table : (allSlots.foldl State.claimSlot s.claimed).table = s.table :=
    (foldl_table State.claimSlot_table allSlots s.claimed).trans (State.changeMode_table _ _)
  rw [effect] at work report table
  obtain ⟨trunk, time, policy, engine, store, pending⟩ : t.trunk = s.trunk ∧ t.time = s.time ∧
      t.policy = s.policy ∧ t.engine = s.engine ∧ t.store = s.store ∧ t.pending = s.pending :=
    ⟨work.trunk, work.time, work.policy, work.engine, work.store, work.pending⟩
  have mgmt : t.mgmt = { s.mgmt with
    mode := .watching, claimTimer := none, flags := t.mgmt.flags } := work.mgmt
  rw [← report, ← mgmt, ← trunk, ← time, ← table, ← policy, ← engine, ← store, ← pending]

theorem State.slot_claimEffect (i : SlotIndex) : s.claimEffect.slot i = (s.slot i).atClaim := by
  rw [State.claimEffect_elsewhere elsewhere]
  have folded := foldl_slot (fun _ => SlotRecord.atClaim)
    (fun t j => (t.slot_claimSlot j j).trans (if_pos rfl))
    (fun t j k other => (t.slot_claimSlot j k).trans (if_neg other)) allSlots allSlots_nodup s.claimed i
  rw [if_pos (mem_allSlots i)] at folded
  exact folded.trans (congrArg SlotRecord.atClaim (State.changeMode_slot _ _ i))

end Claim

/-! ### The alerts of CLAIM (R90, R199, R204) -/

/-- The SLOT_STATE alert that a CLAIM queues for a slot of record `r`, if it admits it (R97). -/
def claimAlert (base : Nat) (i : SlotIndex) (r : SlotRecord) : Option AlertRecord :=
  if r.claimable = true then some (.slotState (base + i.val) .parked .probation .claim) else none

/-- The SLOT_STATE alerts of a CLAIM, ascending (R204). -/
theorem filterMap_claimAlert (base : Nat) (record : SlotIndex → SlotRecord) (l : List SlotIndex) :
    (l.filterMap fun i => claimAlert base i (record i)) =
      (l.filter fun i => (record i).claimable).map fun i =>
        .slotState (base + i.val) .parked .probation .claim := by
  unfold claimAlert
  induction l with
  | nil => rfl
  | cons i l ih =>
    cases admitted : (record i).claimable
    · simp [admitted, ih]
    · simp [admitted, ih]

/-- The alerts of the slots that a CLAIM admits find room, and the management unit stands. -/
theorem State.claimSlots_room {s : State}
    (room : s.report.outbox.length + (allSlots.filter fun i => (s.slot i).claimable).length ≤ 32) :
    (allSlots.foldl State.claimSlot s).report = { s.report with
      outbox := s.report.outbox ++ (allSlots.filter fun i => (s.slot i).claimable).map fun i =>
        ⟨.slotState (s.mgmt.watchBase + i.val) .parked .probation .claim, s.mgmt.chain⟩ } ∧
    (allSlots.foldl State.claimSlot s).mgmt = s.mgmt := by
  have alerts := filterMap_claimAlert s.mgmt.watchBase s.slot allSlots
  have queued := foldl_alerts s.mgmt.watchBase (claimAlert s.mgmt.watchBase)
    (fun t j k other => (t.slot_claimSlot j k).trans (if_neg other))
    (fun t i base silent => ?_) (fun t i r base queued => ?_) allSlots allSlots_nodup s rfl
    (by rwa [alerts, List.length_map])
  · rw [alerts, List.map_map] at queued
    exact queued
  · have other : ¬ (t.slot i).claimable = true := fun admitted => by
      rw [claimAlert, if_pos admitted] at silent
      cases silent
    rw [State.claimSlot_other other]
    exact ⟨rfl, rfl⟩
  · obtain ⟨admitted, alert⟩ := Option.ite_none_right_eq_some.mp queued
    rw [State.claimSlot_admitted admitted, ← Option.some.inj alert, ← base, State.queueAlert_updSlot]
    exact ⟨rfl, rfl⟩

/-- The alerts of a CLAIM in an outbox with room: MODE, then a SLOT_STATE for each slot admitted. -/
theorem State.claimEffect_room {s : State} (elsewhere : s.mgmt.mode ≠ .watching)
    (room : s.report.outbox.length + 1 + (allSlots.filter fun i => (s.slot i).claimable).length ≤ 32) :
    s.claimEffect.mgmt.flags = s.mgmt.flags ∧
    s.claimEffect.report.lostCount = s.report.lostCount ∧
    s.claimEffect.report.outbox = s.report.outbox ++ [⟨.mode s.mgmt.mode .watching, s.mgmt.chain⟩] ++
      (allSlots.filter fun i => (s.slot i).claimable).map fun i =>
        ⟨.slotState (s.mgmt.watchBase + i.val) .parked .probation .claim, s.mgmt.chain⟩ := by
  have begun := State.changeMode_room (s := s.setClaimTimer none) (show _ < 32 by
    rw [State.setClaimTimer_report]
    omega) .watching
  rw [State.claimEffect_elsewhere elsewhere]
  unfold State.claimed
  rw [begun]
  obtain ⟨report, mgmt⟩ := State.claimSlots_room (s := { s.setClaimTimer none with
      mgmt := { (s.setClaimTimer none).mgmt with mode := .watching }
      report := { (s.setClaimTimer none).report with
        outbox := (s.setClaimTimer none).report.outbox ++
          [⟨.mode (s.setClaimTimer none).mgmt.mode .watching, (s.setClaimTimer none).mgmt.chain⟩] } })
    (by
      rw [List.length_append]
      exact room)
  rw [report, mgmt]
  exact ⟨rfl, rfl, rfl⟩

/-! ### The claim timeout (R203) -/

theorem execClaimTimeout_due {s : State} {c : ClaimTimer} (unclaimed : s.mgmt.mode = .unclaimed)
    (timer : s.mgmt.claimTimer = some c) (expired : c.timeout * 5000000 ≤ c.periods) :
    execClaimTimeout s = .next
      (State.queueAlert { s with mgmt := { s.mgmt with mode := .transparent, claimTimer := none } }
        (.mode .unclaimed .transparent)) := by
  have due := State.claimDue_iff.mpr ⟨unclaimed, c, timer, expired⟩
  rw [← unclaimed]
  exact congrArg Host.Outcome.next (if_pos due)

theorem execClaimTimeout_early {s : State} (early : s.mgmt.mode ≠ .unclaimed ∨
    s.mgmt.claimTimer = none ∨ ∃ c, s.mgmt.claimTimer = some c ∧ c.periods < c.timeout * 5000000) :
    execClaimTimeout s = .next s := by
  refine congrArg Host.Outcome.next (if_neg fun due => ?_)
  obtain ⟨unclaimed, c, timer, expired⟩ := State.claimDue_iff.mp due
  obtain elsewhere | stopped | ⟨c', timer', counting⟩ := early
  · exact elsewhere unclaimed
  · rw [stopped] at timer
    cases timer
  · obtain rfl := Option.some.inj (timer.symm.trans timer')
    omega

/-- Settles O38: the effect of CLAIM by blocks, records and alerts, and the timeout by whether it is due. -/
theorem claimAndItsTimeout : Obligations.ClaimAndItsTimeout := by
  intro s seq how admitted
  have run (holds : s.Holds 0x03 [] seq how) :
      exec .claim s = .next (s.claimEffect.answered 0x03 seq how []) :=
    congrArg Host.Outcome.next
      (State.runCommand_done holds rfl (fun _ => by decide) rfl rfl (show claimRule s _ = _ from rfl))
  refine ⟨fun holds watching => ?_, fun holds elsewhere => ?_,
    fun c unclaimed timer expired => execClaimTimeout_due unclaimed timer expired,
    fun early => execClaimTimeout_early early⟩
  · rw [run holds, State.claimEffect_watching watching]
  · exact ⟨s.claimEffect, run holds, State.claimEffect_blocks elsewhere,
      State.slot_claimEffect elsewhere, State.claimEffect_room elsewhere⟩

end Sys2Proof.Machine

namespace Sys2Proof.Machine

/-! ### The window verdicts (R119 to R121) -/

theorem tickBefore_iff {x y : Tick} :
    tickBefore x y = true ↔ 1 ≤ (y - x).toNat ∧ (y - x).toNat ≤ 2147483647 := by
  simp [tickBefore]

section WindowVerdicts

variable {s : State} {i : SlotIndex}

theorem State.stallFound_nil (empty : (s.ageOrder i).head? = none) (start : Tick) :
    s.stallFound i start = none := by
  unfold State.stallFound
  rw [empty]
  exact ite_self _

/-- The STALL condition on the head of the age order (R120). -/
theorem State.stallFound_head {e : Entry} (head : (s.ageOrder i).head? = some e) (start : Tick) :
    s.stallFound i start =
      if (s.slot i).window.completions = 0 ∧ (s.slot i).window.tardies = 0 ∧
          1 ≤ (start - e.arrival).toNat ∧ (start - e.arrival).toNat ≤ 2147483647 then
        some (min 65535 (s.time.tick - e.arrival).toNat, e.tag)
      else none := by
  unfold State.stallFound
  rw [head]
  simp only [tickBefore_iff, ite_and]
  rfl

/-- A count condition that is found when the count reaches its threshold is raised just then (R121). -/
theorem State.raiseFound_threshold (t : State) (i : SlotIndex) (k : VerdictKind) (threshold n : Nat) :
    t.raiseFound i k (if threshold ≤ n then some n else none) =
      if threshold ≤ n then t.raiseVerdict i k n none none else t := by
  rw [apply_ite (t.raiseFound i k)]
  rfl

/-- A settling slot and a FENCED one are spared (R110). -/
theorem State.closeStep1_spared (spared : (s.slot i).state = .fenced ∨ (s.slot i).settling ≠ 0)
    (start : Tick) :
    s.closeStep1 i start = s.setSlot i { s.slot i with settling := (s.slot i).settling - 1 } := by
  unfold State.closeStep1
  rw [if_neg fun judged => spared.elim judged.1 fun unsettled => unsettled judged.2]
  rfl

theorem State.closeStep1_judged (watched : (s.slot i).state ≠ .fenced) (settled : (s.slot i).settling = 0)
    (start : Tick) : s.closeStep1 i start =
      (s.windowVerdicts i start).updSlot i fun r => { r with settling := r.settling - 1 } := by
  unfold State.closeStep1
  rw [if_pos ⟨watched, settled⟩]

end WindowVerdicts

/-- Settles O26: the turn by the slot's state, and the four conditions in their order. -/
theorem turnOfASlotAndItsWindowVerdicts : Obligations.TurnOfASlotAndItsWindowVerdicts := by
  refine ⟨fun s i start => ⟨fun vacant => ?_, fun parked => ?_, fun spared =>
    State.closeStep1_spared spared start⟩, fun s i start watched settled => ?_⟩
  · rw [State.slotTurn_quiet (.inl vacant), State.updSlot, SlotRecord.quietTurn_vacant vacant,
      State.setSlot_slot_self]
  · rw [State.slotTurn_quiet (.inr parked), State.updSlot, SlotRecord.quietTurn_parked parked]
    rfl
  · intro w p stall count u
    have stalled : s.raiseStall i (s.stallFound i start) = stall s := by
      unfold stall
      cases head : (s.ageOrder i).head? with
      | none =>
        rw [State.stallFound_nil head]
        rfl
      | some e =>
        rw [State.stallFound_head head, apply_ite (s.raiseStall i)]
        rfl
    have raised : s.windowVerdicts i start = u := by
      unfold State.windowVerdicts State.missFound State.lateFound State.strayFound
      dsimp only
      rw [stalled, State.raiseFound_threshold, State.raiseFound_threshold, State.raiseFound_threshold]
    rw [State.closeStep1_judged watched settled, raised]
    rfl

end Sys2Proof.Machine

namespace Sys2Proof.Machine

/-! ### Requests that join the set (R149) -/

section Request

variable (s : State) (i : SlotIndex) (o : ProbeOrigin)

theorem State.joinRequest_eq : s.joinRequest i o =
    if s.request? i = none then s.setRequest i (some o) else s := by
  unfold State.joinRequest
  cases s.request? i with
  | none => rfl
  | some x => rfl

theorem State.joinRequest_free (free : s.request? i = none) :
    s.joinRequest i o = s.setRequest i (some o) := (s.joinRequest_eq i o).trans (if_pos free)

theorem State.joinRequest_taken (taken : s.request? i ≠ none) : s.joinRequest i o = s :=
  (s.joinRequest_eq i o).trans (if_neg taken)

@[simp] theorem State.joinRequest_slot (j : SlotIndex) : (s.joinRequest i o).slot j = s.slot j := by
  rw [State.joinRequest_eq]
  split <;> rfl

/-- A request and a change of a slot record commute. -/
theorem State.joinRequest_updSlot (j : SlotIndex) (f : SlotRecord → SlotRecord) :
    (s.joinRequest i o).updSlot j f = (s.updSlot j f).joinRequest i o := by
  have same : (s.updSlot j f).request? i = s.request? i := rfl
  rw [State.joinRequest_eq, State.joinRequest_eq, same]
  split <;> rfl

theorem State.policySet_joinRequest (j : SlotIndex) :
    (s.joinRequest i o).policySet j = s.policySet j :=
  State.policySet_congr (congrArg SlotRecord.config (s.joinRequest_slot i o j))
    (CloseWork.joinRequest s i o).policy

theorem State.joinRequest_closeTail : (s.joinRequest i o).closeTail i = (s.closeTail i).joinRequest i o := by
  unfold State.closeTail
  rw [State.policySet_joinRequest, State.joinRequest_updSlot]

end Request

/-! ### Steps 6 to 9 of a window close (R99, R102, R113, R150, R167) -/

/-- A FENCED slot that recovery probes are sent to: auto-restore on and the VERDICT source set (R113). -/
abbrev SlotRecord.Probed (r : SlotRecord) : Prop :=
  r.state = .fenced ∧ r.config.autoRestore = true ∧ r.verdict = true

/-- The quiet count that step 7 makes (R113). -/
def SlotRecord.quietCount (r : SlotRecord) : Nat :=
  if r.state = .live ∧ r.window.arrivals = 0 then min 255 (r.quiet + 1) else 0

/-- The windows-since-probe that step 7 makes (R113). -/
def SlotRecord.probeCount (r : SlotRecord) : Nat :=
  if r.Probed then min 255 (r.sinceProbe + 1) else r.sinceProbe

/-- A quiet request is due (R150, first row). -/
abbrev ProbeEngine.QuietDue (e : ProbeEngine) (r : SlotRecord) : Prop :=
  e.quietPeriod ≠ 0 ∧ r.state = .live ∧ e.quietPeriod ≤ r.quietCount

/-- A recovery request is due (R150, second row). -/
abbrev ProbeEngine.RecoveryDue (e : ProbeEngine) (r : SlotRecord) : Prop :=
  r.Probed ∧ e.recoveryPeriod ≤ r.probeCount

section Counts

variable {r : SlotRecord} {e : ProbeEngine}

theorem SlotRecord.not_probed_of_live (live : r.state = .live) : ¬ r.Probed := fun probed =>
  absurd (live.symm.trans probed.1) (by decide)

theorem SlotRecord.quietCount_live (live : r.state = .live) :
    r.quietCount = if r.window.arrivals = 0 then min 255 (r.quiet + 1) else 0 := by
  simp [SlotRecord.quietCount, live]

theorem SlotRecord.quietCount_other (other : r.state ≠ .live) : r.quietCount = 0 :=
  if_neg fun h => other h.1

theorem SlotRecord.probeCount_probed (probed : r.Probed) :
    r.probeCount = min 255 (r.sinceProbe + 1) := if_pos probed

theorem SlotRecord.probeCount_other (other : ¬ r.Probed) : r.probeCount = r.sinceProbe := if_neg other

theorem ProbeEngine.quietDue_live (live : r.state = .live) :
    e.QuietDue r ↔ e.quietPeriod ≠ 0 ∧ e.quietPeriod ≤ r.quietCount := by
  simp [live]

theorem ProbeEngine.not_quietDue (other : r.state ≠ .live) : ¬ e.QuietDue r := fun due => other due.2.1

theorem ProbeEngine.recoveryDue_probed (probed : r.Probed) :
    e.RecoveryDue r ↔ e.recoveryPeriod ≤ r.probeCount := and_iff_right probed

theorem ProbeEngine.not_recoveryDue (other : ¬ r.Probed) : ¬ e.RecoveryDue r := fun due => other due.1

end Counts

/-- The record after the ramp and the counts of steps 6 and 7 (R99, R113). -/
def SlotRecord.counted (r : SlotRecord) : SlotRecord :=
  { r with
    ceiling := if r.state = .probation ∧ r.settling = 0 then
      min r.config.ceiling (r.ceiling + r.config.rampStep) else r.ceiling
    quiet := r.quietCount
    sinceProbe := r.probeCount }

theorem SlotRecord.counted_eq (r : SlotRecord) : r.closeStep6.advanceCounts = r.counted := by
  unfold SlotRecord.closeStep6 SlotRecord.counted
  split
  · rfl
  · rfl

/-- The record after steps 6 to 9, with the quiet gap `gap` (R99, R102, R113, R150, R167). -/
def SlotRecord.closed (r : SlotRecord) (gap : Nat) (e : ProbeEngine) : SlotRecord :=
  { r.counted with
    quiet := if e.QuietDue r then 0 else r.quietCount
    sinceProbe := if e.RecoveryDue r then 0 else r.probeCount
    pacing := r.pacing.map fun h => min gap (h - 1)
    lastWindow := r.window
    window := .zero }

/-- Steps 6 to 9 of a window close. -/
def State.finishClose (s : State) (i : SlotIndex) : State :=
  ((s.updSlot i SlotRecord.closeStep6).closeStep7 i).closeTail i

section Finish

variable (s : State) (i : SlotIndex)

/-- Steps 6 and 7, the ramp and the counts taken. -/
theorem State.closeStep7_counted : (s.updSlot i SlotRecord.closeStep6).closeStep7 i =
    ((s.setSlot i (s.slot i).counted).quietRequest i).recoveryRequest i := by
  unfold State.closeStep7
  rw [State.updSlot_updSlot]
  simp only [SlotRecord.counted_eq]
  rfl

theorem State.closeTail_setSlot {x : SlotRecord} (config : x.config = (s.slot i).config) :
    (s.setSlot i x).closeTail i =
      s.setSlot i ((x.paceDown (s.policySet i).quietGap).rollover) := by
  have policy : (s.setSlot i x).policySet i = s.policySet i :=
    State.policySet_congr (by rw [State.slot_setSlot_self, config]) rfl
  unfold State.closeTail State.updSlot
  rw [policy, State.slot_setSlot_self, State.setSlot_setSlot]

variable {s i}

theorem State.quietRequest_due {x : SlotRecord}
    (due : s.engine.quietPeriod ≠ 0 ∧ x.state = .live ∧ s.engine.quietPeriod ≤ x.quiet) :
    (s.setSlot i x).quietRequest i = (s.setSlot i { x with quiet := 0 }).joinRequest i .quiet := by
  unfold State.quietRequest
  rw [State.slot_setSlot_self, State.setSlot_engine, if_pos due, State.joinRequest_updSlot, State.updSlot,
    State.slot_setSlot_self, State.setSlot_setSlot]

theorem State.quietRequest_none {x : SlotRecord}
    (none : ¬ (s.engine.quietPeriod ≠ 0 ∧ x.state = .live ∧ s.engine.quietPeriod ≤ x.quiet)) :
    (s.setSlot i x).quietRequest i = s.setSlot i x := by
  unfold State.quietRequest
  rw [State.slot_setSlot_self]
  exact if_neg none

theorem State.recoveryRequest_due {x : SlotRecord} (probed : x.Probed)
    (due : s.engine.recoveryPeriod ≤ x.sinceProbe) :
    (s.setSlot i x).recoveryRequest i =
      (s.setSlot i { x with sinceProbe := 0 }).joinRequest i .recovery := by
  obtain ⟨fenced, auto, verdict⟩ := probed
  unfold State.recoveryRequest
  rw [State.slot_setSlot_self, State.setSlot_engine, if_pos ⟨fenced, auto, verdict, due⟩,
    State.joinRequest_updSlot, State.updSlot, State.slot_setSlot_self, State.setSlot_setSlot]

theorem State.recoveryRequest_none
    (none : ¬ ((s.slot i).Probed ∧ s.engine.recoveryPeriod ≤ (s.slot i).sinceProbe)) :
    s.recoveryRequest i = s :=
  if_neg fun ⟨fenced, auto, verdict, due⟩ => none ⟨⟨fenced, auto, verdict⟩, due⟩

/-- A LIVE slot with a quiet request due: it is no FENCED one, so no recovery request is due. -/
theorem State.finishClose_quiet (due : s.engine.QuietDue (s.slot i)) :
    s.finishClose i =
      (s.setSlot i ((s.slot i).closed (s.policySet i).quietGap s.engine)).joinRequest i .quiet := by
  have live : (s.slot i).state = .live := due.2.1
  have unprobed : ¬ (s.slot i).Probed := SlotRecord.not_probed_of_live live
  unfold State.finishClose
  rw [State.closeStep7_counted, State.quietRequest_due due, State.recoveryRequest_none,
    State.joinRequest_closeTail, State.closeTail_setSlot _ _ (by rfl)]
  · unfold SlotRecord.closed
    rw [if_pos due, if_neg fun recovery => unprobed recovery.1]
    rfl
  · rw [State.joinRequest_slot, State.slot_setSlot_self]
    exact fun recovery => unprobed recovery.1

theorem State.finishClose_recovery (due : s.engine.RecoveryDue (s.slot i)) :
    s.finishClose i =
      (s.setSlot i ((s.slot i).closed (s.policySet i).quietGap s.engine)).joinRequest i .recovery := by
  obtain ⟨probed, period⟩ := due
  have none : ¬ s.engine.QuietDue (s.slot i) := fun quiet =>
    SlotRecord.not_probed_of_live quiet.2.1 probed
  unfold State.finishClose
  rw [State.closeStep7_counted, State.quietRequest_none none,
    State.recoveryRequest_due (x := (s.slot i).counted) probed period,
    State.joinRequest_closeTail, State.closeTail_setSlot _ _ (by rfl)]
  unfold SlotRecord.closed
  rw [if_neg none, if_pos ⟨probed, period⟩]
  rfl

theorem State.finishClose_plain (quiet : ¬ s.engine.QuietDue (s.slot i))
    (recovery : ¬ s.engine.RecoveryDue (s.slot i)) :
    s.finishClose i = s.setSlot i ((s.slot i).closed (s.policySet i).quietGap s.engine) := by
  unfold State.finishClose
  rw [State.closeStep7_counted, State.quietRequest_none quiet, State.recoveryRequest_none,
    State.closeTail_setSlot _ _ (by rfl)]
  · unfold SlotRecord.closed
    rw [if_neg quiet, if_neg recovery]
    rfl
  · rw [State.slot_setSlot_self]
    exact recovery

/-- Steps 6 to 9: the record, and the request that is due where the slot has none. -/
theorem State.finishClose_eq (s : State) (i : SlotIndex) : s.finishClose i =
    let y := s.setSlot i ((s.slot i).closed (s.policySet i).quietGap s.engine)
    if s.engine.QuietDue (s.slot i) ∧ s.request? i = none then y.setRequest i (some .quiet)
    else if s.engine.RecoveryDue (s.slot i) ∧ s.request? i = none then y.setRequest i (some .recovery)
    else y := by
  dsimp only
  by_cases free : s.request? i = none
  · by_cases quiet : s.engine.QuietDue (s.slot i)
    · rw [if_pos ⟨quiet, free⟩, State.finishClose_quiet quiet]
      exact State.joinRequest_free _ i .quiet free
    · rw [if_neg fun h => quiet h.1]
      by_cases recovery : s.engine.RecoveryDue (s.slot i)
      · rw [if_pos ⟨recovery, free⟩, State.finishClose_recovery recovery]
        exact State.joinRequest_free _ i .recovery free
      · rw [if_neg fun h => recovery h.1, State.finishClose_plain quiet recovery]
  · rw [if_neg fun h => free h.2, if_neg fun h => free h.2]
    by_cases quiet : s.engine.QuietDue (s.slot i)
    · rw [State.finishClose_quiet quiet]
      exact State.joinRequest_taken _ i .quiet free
    · by_cases recovery : s.engine.RecoveryDue (s.slot i)
      · rw [State.finishClose_recovery recovery]
        exact State.joinRequest_taken _ i .recovery free
      · exact State.finishClose_plain quiet recovery

end Finish

end Sys2Proof.Machine

namespace Sys2Proof.Machine

/-! ### Steps 1 and 2 of a window close (R110) -/

theorem SlotWork.policySet {s t : State} (h : SlotWork s t) (i : SlotIndex) :
    t.policySet i = s.policySet i := State.policySet_congr (h.config i) h.policy

/-- The slot judged: the window verdicts raised and the clean run counted (R110). -/
def State.judged (s : State) (i : SlotIndex) (start : Tick) : State :=
  (s.closeStep1 i start).updSlot i SlotRecord.closeStep2

theorem State.judged_work (s : State) (i : SlotIndex) (start : Tick) : SlotWork s (s.judged i start) :=
  (CloseWork.closeStep1 s i start).trans (SlotWork.updSlot _ i _ fun _ => rfl)

/-- The turn of a watched slot is its window close (R109). -/
theorem State.slotTurn_watched {s : State} {i : SlotIndex} (watched : (s.slot i).state.watched = true)
    (start : Tick) : s.slotTurn start i =
      ((((s.judged i start).closeStep3 i).closeStep4 i).closeStep5 i).finishClose i := if_pos watched

/-! ### Steps 3 to 5 of a window close (R111, R112) -/

/-- A slot made LIVE, with its alert (R90, R111). -/
def State.promoted (s : State) (i : SlotIndex) (ceiling : Nat) (cause : SlotCause) : State :=
  (s.setSlot i { s.slot i with state := .live, ceiling := ceiling, quiet := 0 }).queueAlert
    (.slotState (s.slotAddr i) (s.slot i).state .live cause)

section Steps

variable {s : State} {i : SlotIndex}

theorem State.closeStep3_pending (pending : (s.slot i).fencePending = true) : s.closeStep3 i = s :=
  if_pos pending

theorem State.closeStep3_probation (released : (s.slot i).fencePending = false)
    (probation : (s.slot i).state = .probation)
    (clean : (s.policySet i).probationWindows ≤ (s.slot i).cleanRun) :
    s.closeStep3 i = s.promoted i (s.slot i).config.ceiling .probationDone := by
  unfold State.closeStep3
  dsimp only
  rw [released, if_neg nofun, if_pos ⟨probation, clean⟩]
  unfold State.changeState
  rw [State.updSlot_updSlot, State.slot_updSlot_self]
  rfl

theorem State.closeStep3_suspect (released : (s.slot i).fencePending = false)
    (suspect : (s.slot i).state = .suspect)
    (clean : (s.policySet i).confirmWindows ≤ (s.slot i).cleanRun) :
    s.closeStep3 i = s.promoted i (s.slot i).ceiling .confirmed := by
  unfold State.closeStep3
  dsimp only
  rw [released, if_neg nofun, suspect, if_neg nofun, if_pos ⟨rfl, clean⟩]
  unfold State.changeState
  rw [State.updSlot_updSlot, State.slot_updSlot_self]
  rfl

theorem State.closeStep3_kept
    (probation : (s.slot i).state = .probation → (s.slot i).cleanRun < (s.policySet i).probationWindows)
    (suspect : (s.slot i).state = .suspect → (s.slot i).cleanRun < (s.policySet i).confirmWindows) :
    s.closeStep3 i = s := by
  unfold State.closeStep3
  dsimp only
  split
  · rfl
  · rw [if_neg fun h => Nat.not_lt.mpr h.2 (probation h.1),
      if_neg fun h => Nat.not_lt.mpr h.2 (suspect h.1)]

theorem State.closeStep4_pending (pending : (s.slot i).fencePending = true) :
    s.closeStep4 i = s.enterFenced i := if_pos pending

theorem State.closeStep4_released (released : (s.slot i).fencePending = false) : s.closeStep4 i = s :=
  if_neg (by simp [released])

/-- A FENCED slot that returns: no source set and auto-restore on (R112). -/
abbrev SlotRecord.Restores (r : SlotRecord) : Prop :=
  r.state = .fenced ∧ r.manual = false ∧ r.verdict = false ∧ r.config.autoRestore = true

theorem State.closeStep5_restored (restores : (s.slot i).Restores) : s.closeStep5 i =
    (s.setSlot i (s.slot i).toProbation).queueAlert
      (.slotState (s.slotAddr i) .fenced .probation .restore) :=
  (if_pos restores).trans (State.enterProbation_of_fenced restores.1 .restore)

theorem State.closeStep5_kept (kept : ¬ (s.slot i).Restores) : s.closeStep5 i = s := if_neg kept

/-- The record of a slot without a source that enters PROBATION (R91). -/
theorem SlotRecord.toProbation_sourceless {r : SlotRecord} (manual : r.manual = false)
    (verdict : r.verdict = false) : r.toProbation = { r with
      state := .probation, ceiling := r.config.rampStart, cleanRun := 0, adverse := false,
      settling := 2, fencePending := false, quiet := 0, sinceProbe := 0 } := by
  unfold SlotRecord.toProbation
  rw [manual, verdict]

theorem State.promoted_work (s : State) (i : SlotIndex) (ceiling : Nat) (cause : SlotCause) :
    SlotWork s (s.promoted i ceiling cause) := by
  refine SlotWork.trans ?_ (SlotWork.queueAlert _ _)
  exact SlotWork.setSlot s i _ rfl

/-- Steps 4 and 5 leave a slot that has just become LIVE (R112). -/
theorem State.promoted_stands (released : (s.slot i).fencePending = false) (ceiling : Nat)
    (cause : SlotCause) : ((s.promoted i ceiling cause).closeStep4 i).closeStep5 i =
      s.promoted i ceiling cause := by
  have slot : (s.promoted i ceiling cause).slot i =
      { s.slot i with state := .live, ceiling := ceiling, quiet := 0 } :=
    (State.queueAlert_slot _ _ i).trans (State.slot_setSlot_self _ _ _)
  rw [State.closeStep4_released (by rw [slot]; exact released), State.closeStep5_kept]
  rw [slot]
  exact fun restores => nomatch restores.1

end Steps

/-- Settles O29: the turn by its steps, each read on the state that the steps before it left. -/
theorem stepsTwoToNineOfAWindowClose : Obligations.StepsTwoToNineOfAWindowClose := by
  intro s i start serving u r p addr clean judged live restored finished
  have watched : (s.slot i).state.watched = true := by
    obtain accepting | draining | fenced := serving
    · obtain state | state | state := SlotState.accepting_iff.mp accepting <;> rw [state] <;> rfl
    · rw [draining]
      rfl
    · rw [fenced]
      rfl
  have turn : s.slotTurn start i = (((judged.closeStep3 i).closeStep4 i).closeStep5 i).finishClose i :=
    State.slotTurn_watched watched start
  have work : SlotWork s judged := s.judged_work i start
  have slot : judged.slot i = { r with cleanRun := clean, adverse := false } :=
    State.slot_setSlot_self _ _ _
  have state : (judged.slot i).state = r.state := by rw [slot]
  have policy : judged.policySet i = p := work.policySet i
  have close : ∀ w, SlotWork s w → w.finishClose i = finished w := fun w h => by
    rw [State.finishClose_eq, h.engine, h.policySet]
    rfl
  have restore : ∀ w, SlotWork s w → w.closeStep5 i = restored w := fun w h => by
    by_cases restores : (w.slot i).Restores
    · obtain ⟨_, manual, verdict, _⟩ := id restores
      rw [State.closeStep5_restored restores, SlotRecord.toProbation_sourceless manual verdict,
        h.slotAddr]
      exact (if_pos restores).symm
    · exact (State.closeStep5_kept restores).trans (if_neg restores).symm
  have promote : r.fencePending = false → ∀ ceiling cause,
      judged.closeStep3 i = judged.promoted i ceiling cause →
      s.slotTurn start i = finished (live ceiling cause) := fun released ceiling cause promoted => by
    have same : judged.promoted i ceiling cause = live ceiling cause := by
      unfold State.promoted
      rw [work.slotAddr, state]
      rfl
    rw [turn, promoted, State.promoted_stands (by rw [slot]; exact released),
      close _ (work.trans (State.promoted_work ..)), same]
  refine ⟨fun pending => ?_, fun released => ⟨fun probation reached => ?_, fun suspect reached => ?_,
    fun probation suspect => ?_⟩⟩
  · have fence : (judged.slot i).fencePending = true := by
      rw [slot]
      exact pending
    have fenced := work.trans (SlotWork.enterFenced judged i)
    rw [turn, State.closeStep3_pending fence, State.closeStep4_pending fence,
      close _ (fenced.trans (CloseWork.closeStep5 _ i)), restore _ fenced]
  · refine promote released _ _ ?_
    have promoted := State.closeStep3_probation (s := judged) (i := i) (by rw [slot]; exact released)
      (by rw [slot]; exact probation) (by rw [slot, policy]; exact reached)
    rwa [slot] at promoted
  · refine promote released _ _ ?_
    have promoted := State.closeStep3_suspect (s := judged) (i := i) (by rw [slot]; exact released)
      (by rw [slot]; exact suspect) (by rw [slot, policy]; exact reached)
    rwa [slot] at promoted
  · have kept : judged.closeStep3 i = judged :=
      State.closeStep3_kept (by rw [slot, policy]; exact probation) (by rw [slot, policy]; exact suspect)
    rw [turn, kept, State.closeStep4_released (by rw [slot]; exact released),
      close _ (work.trans (CloseWork.closeStep5 _ i)), restore _ work]

end Sys2Proof.Machine

namespace Sys2Proof.Machine

/-! ### Steps 6 to 9, state by state (R99, R113, R150) -/

section Finishing

variable {s : State} {i : SlotIndex} {x : SlotRecord} {gap : Nat}

/-- Steps 6 to 9 on a state in which the slot's record has been written. -/
theorem State.finishClose_setSlot (config : x.config = (s.slot i).config) :
    (s.setSlot i x).finishClose i =
      let y := s.setSlot i (x.closed (s.policySet i).quietGap s.engine)
      if s.engine.QuietDue x ∧ s.request? i = none then y.setRequest i (some .quiet)
      else if s.engine.RecoveryDue x ∧ s.request? i = none then y.setRequest i (some .recovery)
      else y := by
  have policy : (s.setSlot i x).policySet i = s.policySet i :=
    State.policySet_congr (by rw [State.slot_setSlot_self, config]) rfl
  rw [State.finishClose_eq, policy, State.slot_setSlot_self, State.setSlot_setSlot]
  rfl

/-- A LIVE slot: the quiet count, and the quiet request (R113, R150). -/
theorem State.finishClose_live (config : x.config = (s.slot i).config) (live : x.state = .live) :
    (s.setSlot i x).finishClose i =
      let quiet := if x.window.arrivals = 0 then min 255 (x.quiet + 1) else 0
      let due := s.engine.quietPeriod ≠ 0 ∧ s.engine.quietPeriod ≤ quiet
      let y := s.setSlot i { x with
        state := .live
        quiet := if due then 0 else quiet
        pacing := x.pacing.map fun h => min (s.policySet i).quietGap (h - 1)
        lastWindow := x.window
        window := .zero }
      if due ∧ s.request? i = none then y.setRequest i (some .quiet) else y := by
  have unprobed := SlotRecord.not_probed_of_live live
  rw [State.finishClose_setSlot config]
  simp only [SlotRecord.closed, SlotRecord.counted, ProbeEngine.quietDue_live live,
    SlotRecord.quietCount_live live, ProbeEngine.not_recoveryDue unprobed,
    SlotRecord.probeCount_other unprobed, live, false_and, if_false, reduceCtorEq]

/-- A slot that is neither LIVE nor sent recovery probes: the ramp, and the quiet count at 0 (R99, R113). -/
theorem State.finishClose_idle (config : x.config = (s.slot i).config) (idle : x.state ≠ .live)
    (unprobed : ¬ x.Probed) :
    (s.setSlot i x).finishClose i = s.setSlot i { x with
      ceiling := if x.state = .probation ∧ x.settling = 0 then
        min x.config.ceiling (x.ceiling + x.config.rampStep) else x.ceiling
      quiet := 0
      pacing := x.pacing.map fun h => min (s.policySet i).quietGap (h - 1)
      lastWindow := x.window
      window := .zero } := by
  rw [State.finishClose_setSlot config]
  simp only [SlotRecord.closed, SlotRecord.counted, ProbeEngine.not_quietDue idle,
    SlotRecord.quietCount_other idle, ProbeEngine.not_recoveryDue unprobed,
    SlotRecord.probeCount_other unprobed, false_and, if_false]

/-- A slot that is moreover not on its probation ramp. -/
theorem State.finishClose_flat (config : x.config = (s.slot i).config) (idle : x.state ≠ .live)
    (unprobed : ¬ x.Probed) (flat : x.state = .probation → x.settling ≠ 0) :
    (s.setSlot i x).finishClose i = s.setSlot i { x with
      quiet := 0
      pacing := x.pacing.map fun h => min (s.policySet i).quietGap (h - 1)
      lastWindow := x.window
      window := .zero } := by
  rw [State.finishClose_idle config idle unprobed, if_neg fun ramp => flat ramp.1 ramp.2]

/-- A FENCED slot that recovery probes are sent to: windows-since-probe, and the recovery request (R113,
R150). -/
theorem State.finishClose_probed (config : x.config = (s.slot i).config) (probed : x.Probed) :
    (s.setSlot i x).finishClose i =
      let since := min 255 (x.sinceProbe + 1)
      let due := s.engine.recoveryPeriod ≤ since
      let y := s.setSlot i { x with
        quiet := 0
        sinceProbe := if due then 0 else since
        pacing := x.pacing.map fun h => min (s.policySet i).quietGap (h - 1)
        lastWindow := x.window
        window := .zero }
      if due ∧ s.request? i = none then y.setRequest i (some .recovery) else y := by
  have fenced := probed.1
  have unlive : x.state ≠ .live := by simp [fenced]
  rw [State.finishClose_setSlot config]
  simp only [SlotRecord.closed, SlotRecord.counted, ProbeEngine.not_quietDue unlive,
    SlotRecord.quietCount_other unlive, ProbeEngine.recoveryDue_probed probed,
    SlotRecord.probeCount_probed probed, fenced, false_and, if_false, reduceCtorEq]

end Finishing

/-! ### The close of a slot against which no condition is found (R110 to R112) -/

/-- The record after steps 1 and 2, no condition having been found (R110). -/
def SlotRecord.judgedClean (r : SlotRecord) : SlotRecord :=
  { r with
    settling := r.settling - 1
    cleanRun := if r.adverse = true then 0 else min 15 (r.cleanRun + 1)
    adverse := false }

/-- The record of a slot without a source or a pending fence that enters PROBATION (R91). -/
theorem SlotRecord.toProbation_unfenced {r : SlotRecord} (manual : r.manual = false)
    (verdict : r.verdict = false) (released : r.fencePending = false) : r.toProbation = { r with
      state := .probation, ceiling := r.config.rampStart, cleanRun := 0, adverse := false,
      settling := 2, quiet := 0, sinceProbe := 0 } := by
  rw [SlotRecord.toProbation_sourceless manual verdict, released]

section Clean

variable {s : State} {i : SlotIndex} {start : Tick}

theorem State.stallFound_none (moving : (s.slot i).window.completions ≠ 0 ∨
    (s.slot i).window.tardies ≠ 0 ∨ s.ageOrder i = []) (start : Tick) : s.stallFound i start = none := by
  obtain completed | tardy | empty := moving
  · exact if_neg fun h => completed h.1
  · exact if_neg fun h => tardy h.2
  · exact State.stallFound_nil (by rw [empty]; rfl) start

/-- A window in which none of the four conditions is found raises no verdict (R119). -/
theorem State.windowVerdicts_none (losts : (s.slot i).window.losts < (s.policySet i).missThreshold)
    (lates : (s.slot i).window.lates + (s.slot i).window.tardies < (s.policySet i).lateThreshold)
    (strays : (s.slot i).window.strays < (s.policySet i).strayThreshold)
    (moving : (s.slot i).window.completions ≠ 0 ∨ (s.slot i).window.tardies ≠ 0 ∨ s.ageOrder i = [])
    (start : Tick) : s.windowVerdicts i start = s := by
  unfold State.windowVerdicts State.missFound State.lateFound State.strayFound
  dsimp only
  rw [State.stallFound_none moving, if_neg (Nat.not_le.mpr losts), if_neg (Nat.not_le.mpr lates),
    if_neg (Nat.not_le.mpr strays)]
  rfl

theorem State.closeStep1_silent (watched : (s.slot i).state ≠ .fenced)
    (silent : s.windowVerdicts i start = s) :
    s.closeStep1 i start = s.setSlot i { s.slot i with settling := (s.slot i).settling - 1 } := by
  by_cases settled : (s.slot i).settling = 0
  · rw [State.closeStep1_judged watched settled, silent]
    rfl
  · exact State.closeStep1_spared (.inr settled) start

theorem State.judged_clean
    (clean : s.closeStep1 i start = s.setSlot i { s.slot i with settling := (s.slot i).settling - 1 }) :
    s.judged i start = s.setSlot i (s.slot i).judgedClean := by
  unfold State.judged State.updSlot
  rw [clean, State.slot_setSlot_self, State.setSlot_setSlot]
  rfl

variable {x : SlotRecord}

/-- The turn of a watched slot that is neither promoted nor fenced. -/
theorem State.slotTurn_kept (watched : (s.slot i).state.watched = true)
    (judged : s.judged i start = s.setSlot i x) (config : x.config = (s.slot i).config)
    (released : x.fencePending = false)
    (probation : x.state = .probation → x.cleanRun < (s.policySet i).probationWindows)
    (suspect : x.state = .suspect → x.cleanRun < (s.policySet i).confirmWindows) :
    s.slotTurn start i = ((s.setSlot i x).closeStep5 i).finishClose i := by
  have policy := (SlotWork.setSlot s i x config).policySet i
  rw [State.slotTurn_watched watched, judged,
    State.closeStep3_kept (by rwa [policy, State.slot_setSlot_self])
      (by rwa [policy, State.slot_setSlot_self]),
    State.closeStep4_released (by rwa [State.slot_setSlot_self])]

/-- The turn of such a slot that does not return from FENCED either. -/
theorem State.slotTurn_plain (watched : (s.slot i).state.watched = true)
    (judged : s.judged i start = s.setSlot i x) (config : x.config = (s.slot i).config)
    (released : x.fencePending = false)
    (probation : x.state = .probation → x.cleanRun < (s.policySet i).probationWindows)
    (suspect : x.state = .suspect → x.cleanRun < (s.policySet i).confirmWindows)
    (stays : ¬ x.Restores) : s.slotTurn start i = (s.setSlot i x).finishClose i := by
  rw [State.slotTurn_kept watched judged config released probation suspect,
    State.closeStep5_kept (by rwa [State.slot_setSlot_self])]

/-- A FENCED slot whose record is `x` returns to PROBATION (R91, R112). -/
theorem State.finishClose_restored (config : x.config = (s.slot i).config) (restores : x.Restores) :
    ((s.setSlot i x).closeStep5 i).finishClose i =
      (s.queueAlert (.slotState (s.slotAddr i) .fenced .probation .restore)).setSlot i
        { x.toProbation with
          quiet := 0
          pacing := x.pacing.map fun h => min (s.policySet i).quietGap (h - 1)
          lastWindow := x.window
          window := .zero } := by
  rw [State.closeStep5_restored (by rwa [State.slot_setSlot_self]), State.slot_setSlot_self,
    State.setSlot_setSlot, State.queueAlert_setSlot,
    State.finishClose_flat (by rw [State.queueAlert_slot]; exact config)
      (by simp [SlotRecord.toProbation]) (by simp [SlotRecord.toProbation])
      (by simp [SlotRecord.toProbation]), (SlotWork.queueAlert s _).policySet i]
  rfl

end Clean

/-- Settles O28: no condition is found in a FENCED slot; then by its sources and auto-restore. -/
theorem closeOfAFencedSlot : Obligations.CloseOfAFencedSlot := by
  intro s i start r p fenced released clean base
  have watched : (s.slot i).state.watched = true := by
    rw [fenced]
    rfl
  have state : r.judgedClean.state = .fenced := fenced
  have kept := State.slotTurn_kept watched
    (State.judged_clean (State.closeStep1_spared (.inl fenced) start)) rfl released
    (fun h => absurd (state.symm.trans h) (by decide))
    (fun h => absurd (state.symm.trans h) (by decide))
  have plain (stays : ¬ r.judgedClean.Restores) :
      s.slotTurn start i = (s.setSlot i r.judgedClean).finishClose i := by
    rw [kept, State.closeStep5_kept (by rwa [State.slot_setSlot_self])]
  have unlive : r.judgedClean.state ≠ .live := by simp [state]
  have unramped : r.judgedClean.state = .probation → r.judgedClean.settling ≠ 0 := by simp [state]
  refine ⟨fun manual verdict auto => ?_, fun auto verdict => ?_, fun unrestored => ?_⟩
  · rw [kept, State.finishClose_restored (x := r.judgedClean) rfl ⟨state, manual, verdict, auto⟩,
      SlotRecord.toProbation_unfenced (r := r.judgedClean) manual verdict released]
    rfl
  · have probed : r.judgedClean.Probed := ⟨state, auto, verdict⟩
    have stays : ¬ r.judgedClean.Restores := fun restores =>
      absurd (restores.2.2.1.symm.trans verdict) (by decide)
    rw [plain stays, State.finishClose_probed (x := r.judgedClean) rfl probed]
    refine ⟨fun early => ?_, fun due => ?_⟩
    · have undue : ¬ s.engine.recoveryPeriod ≤ min 255 (r.judgedClean.sinceProbe + 1) :=
        Nat.not_le.mpr early
      dsimp only
      rw [if_neg undue, if_neg fun h => undue h.1]
      rfl
    · have due : s.engine.recoveryPeriod ≤ min 255 (r.judgedClean.sinceProbe + 1) := due
      simp only [due, true_and, if_true]
      rfl
  · have stays : ¬ r.judgedClean.Restores := fun ⟨_, manual, _, auto⟩ =>
      unrestored.elim (fun off => absurd (off.symm.trans auto) (by decide))
        fun on => absurd (on.1.symm.trans manual) (by decide)
    have unprobed : ¬ r.judgedClean.Probed := fun ⟨_, auto, verdict⟩ =>
      unrestored.elim (fun off => absurd (off.symm.trans auto) (by decide))
        fun on => absurd (on.2.symm.trans verdict) (by decide)
    rw [plain stays, State.finishClose_flat (x := r.judgedClean) rfl unlive unprobed unramped]
    rfl

/-! ### Promotion of a slot against which no condition is found (R111) -/

section Promotion

variable {s : State} {i : SlotIndex} {x : SlotRecord} {start : Tick}

/-- A slot whose record is `x` made LIVE: the alert stands before the record that steps 6 to 9 leave. -/
theorem State.finishClose_promoted (config : x.config = (s.slot i).config) (ceiling : Nat)
    (cause : SlotCause) : ((s.setSlot i x).promoted i ceiling cause).finishClose i =
      let u := s.queueAlert (.slotState (s.slotAddr i) x.state .live cause)
      let quiet := if x.window.arrivals = 0 then min 255 (0 + 1) else 0
      let due := s.engine.quietPeriod ≠ 0 ∧ s.engine.quietPeriod ≤ quiet
      let y := u.setSlot i { x with
        state := .live
        ceiling := ceiling
        quiet := if due then 0 else quiet
        pacing := x.pacing.map fun h => min (s.policySet i).quietGap (h - 1)
        lastWindow := x.window
        window := .zero }
      if due ∧ s.request? i = none then y.setRequest i (some .quiet) else y := by
  have request (a : AlertRecord) : (s.queueAlert a).request? i = s.request? i := by
    unfold State.request?
    rw [State.queueAlert_engine]
  unfold State.promoted
  rw [State.slot_setSlot_self, State.setSlot_setSlot, State.queueAlert_setSlot,
    State.finishClose_live (by rw [State.queueAlert_slot]; exact config) rfl,
    (SlotWork.queueAlert s _).policySet i, State.queueAlert_engine, request]
  rfl

section Judged

variable (watched : (s.slot i).state.watched = true) (judged : s.judged i start = s.setSlot i x)
  (released : x.fencePending = false)

include watched judged released

/-- The turn of a watched slot that is promoted (R111). -/
theorem State.slotTurn_promoted {ceiling : Nat} {cause : SlotCause}
    (promoted : (s.setSlot i x).closeStep3 i = (s.setSlot i x).promoted i ceiling cause) :
    s.slotTurn start i = ((s.setSlot i x).promoted i ceiling cause).finishClose i := by
  rw [State.slotTurn_watched watched, judged, promoted,
    State.promoted_stands (by rwa [State.slot_setSlot_self])]

variable (config : x.config = (s.slot i).config)

include config

theorem State.slotTurn_probationDone (probation : x.state = .probation)
    (reached : (s.policySet i).probationWindows ≤ x.cleanRun) :
    s.slotTurn start i =
      ((s.setSlot i x).promoted i x.config.ceiling .probationDone).finishClose i := by
  refine State.slotTurn_promoted watched judged released ?_
  have policy := (SlotWork.setSlot s i x config).policySet i
  rw [State.closeStep3_probation (by rwa [State.slot_setSlot_self]) (by rwa [State.slot_setSlot_self])
    (by rwa [policy, State.slot_setSlot_self]), State.slot_setSlot_self]

theorem State.slotTurn_confirmed (suspect : x.state = .suspect)
    (reached : (s.policySet i).confirmWindows ≤ x.cleanRun) :
    s.slotTurn start i = ((s.setSlot i x).promoted i x.ceiling .confirmed).finishClose i := by
  refine State.slotTurn_promoted watched judged released ?_
  have policy := (SlotWork.setSlot s i x config).policySet i
  rw [State.closeStep3_suspect (by rwa [State.slot_setSlot_self]) (by rwa [State.slot_setSlot_self])
    (by rwa [policy, State.slot_setSlot_self]), State.slot_setSlot_self]

end Judged

end Promotion

/-- Settles O27: no verdict is raised, then by the slot's state and its clean run. -/
theorem closeOfAnUntroubledSlot : Obligations.CloseOfAnUntroubledSlot := by
  intro s i start r p gated released untroubled clean base quiet live
  have watched : (s.slot i).state.watched = true := SlotState.Gated.watched gated
  have unfenced : (s.slot i).state ≠ .fenced := SlotState.Gated.ne_fenced gated
  have silent : s.closeStep1 i start =
      s.setSlot i { s.slot i with settling := (s.slot i).settling - 1 } := by
    obtain settling | ⟨losts, lates, strays, moving⟩ := untroubled
    · exact State.closeStep1_spared (.inr settling) start
    · exact State.closeStep1_silent unfenced (State.windowVerdicts_none losts lates strays moving start)
  have judged := State.judged_clean silent
  have stays : ¬ r.judgedClean.Restores := fun restores => unfenced restores.1
  have unprobed : ¬ r.judgedClean.Probed := fun probed => unfenced probed.1
  have plain := fun probation suspect =>
    State.slotTurn_plain (x := r.judgedClean) watched judged rfl released probation suspect stays
  have flat (other : r.judgedClean.state ≠ .live) (unramped : r.judgedClean.state ≠ .probation) :=
    State.finishClose_flat (x := r.judgedClean) rfl other unprobed (absurd · unramped)
  refine ⟨fun state => ?_, fun state reached => ?_, fun state reached => ?_, fun state short => ?_,
    fun state short => ?_, fun state => ?_⟩
  all_goals change r.judgedClean.state = _ at state
  · rw [plain (by simp [state]) (by simp [state]), State.finishClose_live (x := r.judgedClean) rfl state]
    rfl
  · rw [State.slotTurn_probationDone (x := r.judgedClean) watched judged released rfl state reached,
      State.finishClose_promoted (x := r.judgedClean) rfl, state]
    rfl
  · rw [State.slotTurn_confirmed (x := r.judgedClean) watched judged released rfl state reached,
      State.finishClose_promoted (x := r.judgedClean) rfl, state]
    rfl
  · have ramp : r.judgedClean.state = .probation ∧ r.judgedClean.settling = 0 ↔ r.settling ≤ 1 :=
      (and_iff_right state).trans Nat.sub_eq_zero_iff_le
    rw [plain (fun _ => short) (by simp [state]),
      State.finishClose_idle (x := r.judgedClean) rfl (by simp [state]) unprobed]
    simp only [ramp]
    rfl
  · rw [plain (by simp [state]) (fun _ => short), flat (by simp [state]) (by simp [state])]
    rfl
  · rw [plain (by simp [state]) (by simp [state]), flat (by simp [state]) (by simp [state])]
    rfl

end Sys2Proof.Machine

namespace Sys2Proof.Machine

/-! ### The action of a verdict (R127) -/

theorem verdictAction_of_refusing {st : SlotState} (refusing : st.accepting = false) (p : Policy) :
    verdictAction st p = .report := by
  cases st with
  | probation | live | suspect => cases refusing
  | vacant | parked | draining | fenced => rfl

theorem verdictAction_of_report (st : SlotState) : verdictAction st .report = .report := by
  cases st <;> rfl

/-- The policies and states in which a verdict acts as "VERDICT set" (R127). -/
theorem verdictAction_setVerdict {st : SlotState} {p : Policy}
    (acts : (p = .fence ∧ st.accepting = true) ∨ (p = .confirm ∧ (st = .suspect ∨ st = .probation))) :
    verdictAction st p = .setVerdict := by
  obtain ⟨rfl, accepting⟩ | ⟨rfl, rfl | rfl⟩ := acts
  · cases st with
    | probation | live | suspect => rfl
    | vacant | parked | draining | fenced => cases accepting
  · rfl
  · rfl

/-- Where every verdict acts as REPORT, so does the policy that the alert carries (R118, R131, R132). -/
theorem policyApplied_of_refusing {st : SlotState} (refusing : st.accepting = false) (p : Policy) :
    policyApplied st p = .report := if_neg (by simp [refusing])

theorem policyApplied_of_accepting {st : SlotState} (accepting : st.accepting = true) (p : Policy) :
    policyApplied st p = p := if_pos accepting

theorem policyApplied_report (st : SlotState) : policyApplied st .report = .report := ite_self _

section Verdict

variable {s : State} {i : SlotIndex} {k : VerdictKind} {n : Nat} {q : Option Nat} {t : Option Tag}

/-- The record submitted to pacing leaves the state of its slot (R166). -/
theorem State.submitVerdict_state (applied : Policy) (after : SlotState) :
    ((s.submitVerdict i k applied after n q t).slot i).state = (s.slot i).state := by
  unfold State.submitVerdict
  dsimp only
  split
  · rw [State.queueAlert_slot, State.slot_setSlot_self]
  · rw [State.slot_setSlot_self]

/-- "VERDICT set" under gate IMMEDIATE fences an accepting slot at once (R134). -/
theorem State.setVerdict_immediate (accepting : (s.slot i).state.accepting = true)
    (gate : (s.slot i).config.gate = .immediate) :
    s.setVerdict i = (s.updSlot i fun r => { r with verdict := true }).enterFenced i :=
  State.gateEffect_immediate (by rwa [State.slot_updSlot_self]) (by rwa [State.slot_updSlot_self])

/-- A LIVE slot is made SUSPECT with clean run 0 and the alert of the change (R90, R128). -/
theorem State.applyVerdict_suspect (live : (s.slot i).state = .live) :
    s.applyVerdict i .suspect =
      (s.setSlot i { s.slot i with cleanRun := 0, state := .suspect }).queueAlert
        (.slotState (s.slotAddr i) .live .suspect .verdict) := by
  unfold State.applyVerdict State.changeState
  dsimp only
  rw [State.updSlot_updSlot, State.slot_updSlot_self, live]
  rfl

/-- The state whose record is submitted: the flags of the slot and the period's count taken (R118). -/
def State.verdictMarked (s : State) (i : SlotIndex) (k : VerdictKind) (p : Policy) : State :=
  (s.updSlot i fun r => r.markVerdict k p).countVerdict

theorem State.slot_verdictMarked (p : Policy) :
    (s.verdictMarked i k p).slot i = (s.slot i).markVerdict k p :=
  s.slot_updSlot_self i fun r => r.markVerdict k p

/-- A verdict under a policy other than OFF is marked, submitted and applied, in this order (R118). -/
theorem State.raiseVerdict_raised (on : (s.policySet i).policies.get k ≠ .off) {a : VerdictAction}
    (acts : verdictAction (s.slot i).state ((s.policySet i).policies.get k) = a) :
    s.raiseVerdict i k n q t =
      ((s.verdictMarked i k ((s.policySet i).policies.get k)).submitVerdict i k
        (policyApplied (s.slot i).state ((s.policySet i).policies.get k))
        (stateAfterVerdict (s.slot i) a) (min 65535 n) q t).applyVerdict i a := by
  subst acts
  exact if_neg on

end Verdict

/-- Settles O31: by the action that the table of R127 gives, and under "VERDICT set" by the fence gate. -/
theorem raisedVerdict : Obligations.RaisedVerdict := by
  intro s i k figure partner tag r p marked submitted raised
  have record : marked.slot i = r.markVerdict k p := State.slot_verdictMarked p
  have state (applied : Policy) (after : SlotState) :
      ((submitted applied after).slot i).state = r.state := by
    rw [State.submitVerdict_state, record]
    rfl
  have work (applied : Policy) (after : SlotState) : SlotWork marked (submitted applied after) :=
    SlotWork.submitVerdict ..
  have config (applied : Policy) (after : SlotState) :
      ((submitted applied after).slot i).config = r.config := by
    rw [(work applied after).config, record]
    rfl
  refine ⟨fun off => if_pos off, fun on refusing => ?_, fun report => ?_, fun confirm live => ?_,
    fun acts => ?_⟩
  · exact (State.raiseVerdict_raised on (verdictAction_of_refusing refusing p)).trans
      (congrArg (submitted · r.state) (policyApplied_of_refusing refusing p))
  · have action : verdictAction r.state p = .report := report ▸ verdictAction_of_report r.state
    exact (State.raiseVerdict_raised (report.trans_ne nofun) action).trans
      (congrArg (submitted · r.state) (report ▸ policyApplied_report r.state))
  · have action : verdictAction r.state p = .suspect := by rw [live, confirm]; rfl
    have applied : policyApplied r.state p = .confirm := by rw [live, confirm]; rfl
    calc raised
      _ = (submitted (policyApplied r.state p) .suspect).applyVerdict i .suspect :=
        State.raiseVerdict_raised (confirm.trans_ne nofun) action
      _ = (submitted .confirm .suspect).applyVerdict i .suspect := by rw [applied]
      _ = _ := by
        rw [State.applyVerdict_suspect ((state _ _).trans live), (work _ _).slotAddr]
        rfl
  · have action := verdictAction_setVerdict acts
    have accepting := accepting_of_verdictAction action
    have on : p ≠ .off := by
      obtain ⟨fence, _⟩ | ⟨confirm, _⟩ := acts
      · exact fence.trans_ne nofun
      · exact confirm.trans_ne nofun
    have raised_eq : raised =
        (submitted p (stateAfterVerdict r .setVerdict)).setVerdict i :=
      (State.raiseVerdict_raised on action).trans (congrArg
        (fun applied => (submitted applied (stateAfterVerdict r .setVerdict)).setVerdict i)
        (policyApplied_of_accepting accepting p))
    refine ⟨fun gate => ?_, fun gate => ?_⟩
    · have after : stateAfterVerdict r .setVerdict = .fenced := by rw [stateAfterVerdict, gate]
      rw [raised_eq, after]
      exact State.setVerdict_immediate (by rwa [state]) (by rwa [config])
    · have after : stateAfterVerdict r .setVerdict = r.state := by rw [stateAfterVerdict, gate]
      rw [raised_eq, after]
      exact State.setVerdict_boundary (by rwa [state]) (by rwa [config])

end Sys2Proof.Machine

namespace Sys2Proof.Machine

/-! ### Class profiles (R190, R191, R198) -/

/-- A class number is read as the class of that number (R191). -/
theorem classField_of_lt {n : Nat} (h : n < 16) : ∃ cls, classField n = some cls ∧ cls.toNat = n :=
  ⟨BitVec.ofNat 4 n, if_pos h, by rw [BitVec.toNat_ofNat]; omega⟩

theorem classField_of_ge {n : Nat} (h : 15 < n) : classField n = none := if_neg (by omega)

theorem setField_of_ge {n : Nat} (h : 3 < n) : setField n = none := dif_neg (by omega)

theorem boolField_of_gt {b : Byte} (h : 1 < b.toNat) : boolField b.toNat = none :=
  Option.eq_none_iff_forall_ne_some.mpr fun _ read =>
    absurd (boolField_eq_some.mp read).1 (by omega)

/-- Copy 1 is the staged one, copy 0 the active one (R198). -/
theorem copy_getElem {α : Type} {m k : Nat} (copy : Byte) (staged active : Vector α m) (h : k < m) :
    (if (if copy = 1 then true else false) = true then staged else active)[k] =
      if copy = 1 then staged[k] else active[k] := by
  by_cases one : copy = 1
  · simp only [if_pos one, if_true]
  · simp only [if_neg one, Bool.false_eq_true, if_false]

section Profile

variable {s : State} {seq : Byte} {how : Addressing} {c d1 d0 g1 g0 t1 t0 w copy : Byte}

/-- The four fields of a class profile that the bytes spell (R190). -/
def profileOfBytes (d1 d0 g1 g0 t1 t0 : Byte) (watched : Bool) : ClassProfile :=
  ⟨d1.toNat * 256 + d0.toNat, g1.toNat * 256 + g0.toNat, t1.toNat * 256 + t0.toNat, watched⟩

theorem profileOfBytes_inRange {watched : Bool} :
    (profileOfBytes d1 d0 g1 g0 t1 t0 watched).inRange = true ↔
      d1.toNat * 256 + d0.toNat ≠ 0 ∧ t1.toNat * 256 + t0.toNat ≠ 0 := by
  have := d1.isLt
  have := d0.isLt
  have := g1.isLt
  have := g0.isLt
  have := t1.isLt
  have := t0.isLt
  rw [ClassProfile.inRange_iff]
  simp only [profileOfBytes]
  omega

/-- The parameters of WRITE_PROFILE as their bytes spell them (R191, R198). -/
theorem parseProfile_bytes :
    parseProfile [c, d1, d0, g1, g0, t1, t0, w] 1 =
      (boolField w.toNat).bind fun watched =>
        if (profileOfBytes d1 d0 g1 g0 t1 t0 watched).inRange = true then
          some (profileOfBytes d1 d0 g1 g0 t1 t0 watched)
        else none := by
  unfold profileOfBytes
  rw [← fromBE_two, ← fromBE_two, ← fromBE_two]
  rfl

theorem parseProfile_good (deadline : d1.toNat * 256 + d0.toNat ≠ 0)
    (twin : t1.toNat * 256 + t0.toNat ≠ 0) (watched : w.toNat ≤ 1) :
    parseProfile [c, d1, d0, g1, g0, t1, t0, w] 1 =
      some (profileOfBytes d1 d0 g1 g0 t1 t0 (if w = 1 then true else false)) := by
  rw [parseProfile_bytes, boolField_eq_some.mpr ⟨watched, rfl⟩]
  exact if_pos (profileOfBytes_inRange.mpr ⟨deadline, twin⟩)

theorem parseProfile_bad (bad : d1.toNat * 256 + d0.toNat = 0 ∨ t1.toNat * 256 + t0.toNat = 0 ∨
    1 < w.toNat) : parseProfile [c, d1, d0, g1, g0, t1, t0, w] 1 = none := by
  refine Option.eq_none_iff_forall_ne_some.mpr fun p parsed => ?_
  rw [parseProfile_bytes] at parsed
  obtain ⟨_, read, parsed⟩ := Option.bind_eq_some_iff.mp parsed
  have watched := (boolField_eq_some.mp read).1
  obtain ⟨deadline, twin⟩ := profileOfBytes_inRange.mp (Option.ite_none_right_eq_some.mp parsed).1
  omega

theorem writeProfileRule_bad {x : CommandCopy}
    (bad : classField (p8 x.params 0) = none ∨ parseProfile x.params 1 = none) :
    writeProfileRule s x = .refuse .range := by
  unfold writeProfileRule
  obtain unread | unread := bad
  · rw [unread]
  · rw [unread]
    cases classField (p8 x.params 0) <;> rfl

theorem writeProfileRule_good {x : CommandCopy} {cls : TxClass} {p : ClassProfile}
    (read : classField (p8 x.params 0) = some cls) (parsed : parseProfile x.params 1 = some p) :
    writeProfileRule s x = .done { s with mgmt := { s.mgmt with
      stagedProfiles := s.mgmt.stagedProfiles.set cls.toNat p cls.isLt } } [] := by
  unfold writeProfileRule
  rw [read, parsed]

theorem execWriteProfile_bad (holds : s.Holds 0x09 [c, d1, d0, g1, g0, t1, t0, w] seq how)
    (bad : 15 < c.toNat ∨ d1.toNat * 256 + d0.toNat = 0 ∨ t1.toNat * 256 + t0.toNat = 0 ∨
      1 < w.toNat) : exec .writeProfile s = .next (s.turnedAway 0x09 seq how 3) :=
  congrArg Host.Outcome.next <|
    State.runCommand_refuse (r := .range) holds rfl (fun _ => by decide) rfl rfl
      (writeProfileRule_bad (bad.imp classField_of_ge parseProfile_bad))

theorem execWriteProfile_good (holds : s.Holds 0x09 [c, d1, d0, g1, g0, t1, t0, w] seq how)
    (hc : c.toNat < 16) (deadline : d1.toNat * 256 + d0.toNat ≠ 0)
    (twin : t1.toNat * 256 + t0.toNat ≠ 0) (watched : w.toNat ≤ 1) :
    exec .writeProfile s = .next
      ({ s with mgmt := { s.mgmt with
          stagedProfiles := s.mgmt.stagedProfiles.set c.toNat
            (profileOfBytes d1 d0 g1 g0 t1 t0 (decide (w = 1))) hc } }.answered
        0x09 seq how []) := by
  obtain ⟨cls, read, number⟩ := classField_of_lt hc
  have accepted := writeProfileRule_good (s := s)
    (x := ⟨0x09 :: [c, d1, d0, g1, g0, t1, t0, w], seq, how⟩) read
    (parseProfile_good deadline twin watched)
  simp only [number, Bool.if_false_right, Bool.and_true] at accepted
  exact congrArg Host.Outcome.next
    (State.runCommand_done holds rfl (fun _ => by decide) rfl rfl accepted)

theorem readProfileRule_bad {x : CommandCopy}
    (bad : classField (p8 x.params 0) = none ∨ boolField (p8 x.params 1) = none) :
    readProfileRule s x = .refuse .range := by
  unfold readProfileRule
  obtain unread | unread := bad
  · rw [unread]
  · rw [unread]
    cases classField (p8 x.params 0) <;> rfl

theorem readProfileRule_good {x : CommandCopy} {cls : TxClass} {staged : Bool}
    (read : classField (p8 x.params 0) = some cls) (chosen : boolField (p8 x.params 1) = some staged) :
    readProfileRule s x = .done s ((if staged = true then s.mgmt.stagedProfiles
      else s.mgmt.activeProfiles)[cls.toNat]'cls.isLt).bytes := by
  unfold readProfileRule
  rw [read, chosen]

theorem execReadProfile_bad (holds : s.Holds 0x0A [c, copy] seq .own)
    (bad : 15 < c.toNat ∨ 1 < copy.toNat) :
    exec .readProfile s = .next (s.turnedAway 0x0A seq .own 3) :=
  congrArg Host.Outcome.next <|
    State.runCommand_refuse (r := .range) holds rfl nofun rfl rfl
      (readProfileRule_bad (bad.imp classField_of_ge boolField_of_gt))

theorem execReadProfile_good (holds : s.Holds 0x0A [c, copy] seq .own) (hc : c.toNat < 16)
    (chosen : copy.toNat ≤ 1) :
    exec .readProfile s = .next (s.answered 0x0A seq .own
      (if copy = 1 then s.mgmt.stagedProfiles[c.toNat] else s.mgmt.activeProfiles[c.toNat]).bytes) := by
  obtain ⟨cls, read, number⟩ := classField_of_lt hc
  have accepted := readProfileRule_good (s := s) (x := ⟨0x0A :: [c, copy], seq, .own⟩) read
    (boolField_eq_some.mpr ⟨chosen, rfl⟩)
  simp only [number, copy_getElem] at accepted
  exact congrArg Host.Outcome.next (State.runCommand_done holds rfl nofun rfl rfl accepted)

theorem ClassProfile.bytes_eq (p : ClassProfile) :
    p.bytes = be16 p.deadline ++ be16 p.grace ++ be16 p.twinWindow ++
      [if p.watched = true then 1 else 0] := by
  unfold ClassProfile.bytes
  cases p.watched <;> rfl

end Profile

/-! ### Policy sets (R123, R124, R198) -/

/-- The policy of a code (R198). -/
def policyOfByte (b : Byte) : Policy :=
  if b = 0 then .off else if b = 1 then .report else if b = 2 then .confirm else .fence

theorem policyField_of_lt {b : Byte} (h : b.toNat < 4) :
    policyField b.toNat = some (policyOfByte b) := by
  have code : b = 0 ∨ b = 1 ∨ b = 2 ∨ b = 3 := by bv_omega
  obtain rfl | rfl | rfl | rfl := code <;> rfl

theorem lt_of_policyField {n : Nat} {p : Policy} (read : policyField n = some p) : n < 4 := by
  by_contra large
  rw [policyField, if_neg (by omega), if_neg (by omega), if_neg (by omega), if_neg (by omega)] at read
  cases read

section PolicySet

variable {s : State} {seq : Byte} {how : Addressing}
  {n p0 p1 p2 p3 p4 p5 p6 miss late stray conf prob gap copy : Byte}

/-- A policy set of these policies whose six figures the bytes spell (R123). -/
def policySetOfBytes (policies : PerKind Policy) (miss late stray conf prob gap : Byte) : PolicySet :=
  { policies := policies, missThreshold := miss.toNat, lateThreshold := late.toNat,
    strayThreshold := stray.toNat, confirmWindows := conf.toNat, probationWindows := prob.toNat,
    quietGap := gap.toNat }

/-- The figures of a policy set within their ranges (R123). -/
def FigureBytesInRange (miss late stray conf prob gap : Byte) : Prop :=
  miss ≠ 0 ∧ late ≠ 0 ∧ stray ≠ 0 ∧ conf ≠ 0 ∧ conf.toNat ≤ 15 ∧ prob ≠ 0 ∧ prob.toNat ≤ 15 ∧
    gap.toNat ≤ 15

theorem policySetOfBytes_inRange {policies : PerKind Policy} :
    (policySetOfBytes policies miss late stray conf prob gap).inRange = true ↔
      FigureBytesInRange miss late stray conf prob gap := by
  have := miss.isLt
  have := late.isLt
  have := stray.isLt
  unfold FigureBytesInRange
  rw [PolicySet.inRange_iff]
  simp only [policySetOfBytes, byte_ne_zero_iff]
  omega

/-- The parameters of WRITE_POLICY as their bytes spell them (R123, R198). -/
theorem parsePolicySet_bytes :
    parsePolicySet [n, p0, p1, p2, p3, p4, p5, p6, miss, late, stray, conf, prob, gap] 1 =
      (policyField p0.toNat).bind fun stall => (policyField p1.toNat).bind fun missRun =>
        (policyField p2.toNat).bind fun lateRun => (policyField p3.toNat).bind fun strayRun =>
          (policyField p4.toNat).bind fun diverge => (policyField p5.toNat).bind fun straggle =>
            (policyField p6.toNat).bind fun probeFail =>
              if (policySetOfBytes ⟨stall, missRun, lateRun, strayRun, diverge, straggle, probeFail⟩
                  miss late stray conf prob gap).inRange = true then
                some (policySetOfBytes ⟨stall, missRun, lateRun, strayRun, diverge, straggle, probeFail⟩
                  miss late stray conf prob gap)
              else none := rfl

theorem parsePolicySet_good (policies : ∀ p ∈ [p0, p1, p2, p3, p4, p5, p6], p.toNat < 4)
    (figures : FigureBytesInRange miss late stray conf prob gap) :
    parsePolicySet [n, p0, p1, p2, p3, p4, p5, p6, miss, late, stray, conf, prob, gap] 1 =
      some (policySetOfBytes ⟨policyOfByte p0, policyOfByte p1, policyOfByte p2, policyOfByte p3,
        policyOfByte p4, policyOfByte p5, policyOfByte p6⟩ miss late stray conf prob gap) := by
  simp only [List.forall_mem_cons] at policies
  obtain ⟨stall, missRun, lateRun, strayRun, diverge, straggle, probeFail, _⟩ := policies
  rw [parsePolicySet_bytes, policyField_of_lt stall, policyField_of_lt missRun,
    policyField_of_lt lateRun, policyField_of_lt strayRun, policyField_of_lt diverge,
    policyField_of_lt straggle, policyField_of_lt probeFail]
  exact if_pos (policySetOfBytes_inRange.mpr figures)

/-- Parameters that are read have every policy and figure in range (R124). -/
theorem inRange_of_parsePolicySet {p : PolicySet} (parsed :
      parsePolicySet [n, p0, p1, p2, p3, p4, p5, p6, miss, late, stray, conf, prob, gap] 1 = some p) :
    (∀ p ∈ [p0, p1, p2, p3, p4, p5, p6], p.toNat < 4) ∧
      FigureBytesInRange miss late stray conf prob gap := by
  rw [parsePolicySet_bytes] at parsed
  simp only [Option.bind_eq_some_iff] at parsed
  obtain ⟨_, stall, _, missRun, _, lateRun, _, strayRun, _, diverge, _, straggle, _, probeFail,
    parsed⟩ := parsed
  refine ⟨?_, policySetOfBytes_inRange.mp (Option.ite_none_right_eq_some.mp parsed).1⟩
  simp only [List.forall_mem_cons, List.not_mem_nil, false_implies, implies_true, and_true]
  exact ⟨lt_of_policyField stall, lt_of_policyField missRun, lt_of_policyField lateRun,
    lt_of_policyField strayRun, lt_of_policyField diverge, lt_of_policyField straggle,
    lt_of_policyField probeFail⟩

theorem writePolicyRule_good {x : CommandCopy} {m : Fin 4} {p : PolicySet}
    (read : setField (p8 x.params 0) = some m) (parsed : parsePolicySet x.params 1 = some p) :
    writePolicyRule s x =
      .done { s with policy := { s.policy with staged := s.policy.staged.set m p } } [] := by
  unfold writePolicyRule
  rw [read, parsed]

theorem writePolicyRule_bad {x : CommandCopy}
    (bad : ∀ m p, setField (p8 x.params 0) = some m → parsePolicySet x.params 1 ≠ some p) :
    writePolicyRule s x = .refuse .range := by
  unfold writePolicyRule
  split
  · rename_i m p read parsed
    exact absurd parsed (bad m p read)
  · rfl

theorem execWritePolicy_bad (holds : s.Holds 0x0B
      [n, p0, p1, p2, p3, p4, p5, p6, miss, late, stray, conf, prob, gap] seq how)
    (bad : ¬ (n.toNat < 4 ∧ (∀ p ∈ [p0, p1, p2, p3, p4, p5, p6], p.toNat < 4) ∧
      FigureBytesInRange miss late stray conf prob gap)) :
    exec .writePolicy s = .next (s.turnedAway 0x0B seq how 3) :=
  congrArg Host.Outcome.next <|
    State.runCommand_refuse (r := .range) holds rfl (fun _ => by decide) rfl rfl
      (writePolicyRule_bad fun _ _ read parsed =>
        bad ⟨lt_of_setField read, inRange_of_parsePolicySet parsed⟩)

theorem execWritePolicy_good (holds : s.Holds 0x0B
      [n, p0, p1, p2, p3, p4, p5, p6, miss, late, stray, conf, prob, gap] seq how)
    (hn : n.toNat < 4) (policies : ∀ p ∈ [p0, p1, p2, p3, p4, p5, p6], p.toNat < 4)
    (figures : FigureBytesInRange miss late stray conf prob gap) :
    exec .writePolicy s = .next
      ({ s with policy := { s.policy with
          staged := s.policy.staged.set n.toNat
            (policySetOfBytes ⟨policyOfByte p0, policyOfByte p1, policyOfByte p2, policyOfByte p3,
              policyOfByte p4, policyOfByte p5, policyOfByte p6⟩ miss late stray conf prob gap)
            hn } }.answered 0x0B seq how []) := by
  have parsed := parsePolicySet_good (n := n) policies figures
  exact congrArg Host.Outcome.next <|
    State.runCommand_done holds rfl (fun _ => by decide) rfl rfl
      (writePolicyRule_good (x := ⟨0x0B :: [n, p0, p1, p2, p3, p4, p5, p6, miss, late, stray, conf,
        prob, gap], seq, how⟩) (setField_of_lt hn) parsed)

theorem readPolicyRule_bad {x : CommandCopy}
    (bad : setField (p8 x.params 0) = none ∨ boolField (p8 x.params 1) = none) :
    readPolicyRule s x = .refuse .range := by
  unfold readPolicyRule
  obtain unread | unread := bad
  · rw [unread]
  · rw [unread]
    cases setField (p8 x.params 0) <;> rfl

theorem readPolicyRule_good {x : CommandCopy} {m : Fin 4} {staged : Bool}
    (read : setField (p8 x.params 0) = some m) (chosen : boolField (p8 x.params 1) = some staged) :
    readPolicyRule s x =
      .done s (if staged = true then s.policy.staged else s.policy.active)[m.val].bytes := by
  unfold readPolicyRule
  rw [read, chosen]
  rfl

theorem execReadPolicy_bad (holds : s.Holds 0x0C [n, copy] seq .own)
    (bad : 3 < n.toNat ∨ 1 < copy.toNat) :
    exec .readPolicy s = .next (s.turnedAway 0x0C seq .own 3) :=
  congrArg Host.Outcome.next <|
    State.runCommand_refuse (r := .range) holds rfl nofun rfl rfl
      (readPolicyRule_bad (bad.imp setField_of_ge boolField_of_gt))

theorem execReadPolicy_good (holds : s.Holds 0x0C [n, copy] seq .own) (hn : n.toNat < 4)
    (chosen : copy.toNat ≤ 1) :
    exec .readPolicy s = .next (s.answered 0x0C seq .own
      (if copy = 1 then s.policy.staged[n.toNat] else s.policy.active[n.toNat]).bytes) := by
  have accepted := readPolicyRule_good (s := s) (x := ⟨0x0C :: [n, copy], seq, .own⟩)
    (setField_of_lt hn) (boolField_eq_some.mpr ⟨chosen, rfl⟩)
  rw [copy_getElem] at accepted
  exact congrArg Host.Outcome.next (State.runCommand_done holds rfl nofun rfl rfl accepted)

end PolicySet

/-- Settles O42: each command by whether its bytes are in range, and the copy that it writes or reads. -/
theorem profilesAndPolicySets : Obligations.ProfilesAndPolicySets := by
  refine ⟨fun s seq how c d1 d0 g1 g0 t1 t0 w copy => ⟨fun holds => ?_, fun holds => ?_⟩,
    fun s seq how n p0 p1 p2 p3 p4 p5 p6 miss late stray conf prob gap copy =>
      ⟨fun holds => ?_, fun holds => ?_⟩⟩
  · exact ⟨execWriteProfile_bad holds, execWriteProfile_good holds⟩
  · refine ⟨execReadProfile_bad holds, fun hc chosen => ?_⟩
    intro p
    rw [← ClassProfile.bytes_eq]
    exact execReadProfile_good holds hc chosen
  · exact ⟨execWritePolicy_bad holds, fun ⟨_, policies, figures⟩ hn =>
      execWritePolicy_good holds hn policies figures⟩
  · exact ⟨execReadPolicy_bad holds, execReadPolicy_good holds⟩

end Sys2Proof.Machine

namespace Sys2Proof.Machine

/-! ### A service of the request set (R151) -/

/-- The request of a slot is there and is eligible when a service is taken (R151). -/
def State.RequestEligible (s : State) (i : SlotIndex) : Prop :=
  ∃ o, s.request? i = some o ∧ (s.slot i).eligible o = true

section Service

variable {s : State}

theorem SlotRecord.eligible_quiet_iff {r : SlotRecord} : r.eligible .quiet = true ↔ r.state = .live :=
  decide_eq_true_iff

theorem SlotRecord.eligible_recovery_iff {r : SlotRecord} : r.eligible .recovery = true ↔
    r.state = .fenced ∧ r.config.autoRestore = true ∧ r.verdict = true := by
  simp [SlotRecord.eligible, and_assoc]

theorem SlotRecord.eligible_command_iff {r : SlotRecord} : r.eligible .command = true ↔
    r.state.accepting = true ∨ r.state = .fenced := by
  simp [SlotRecord.eligible]

/-- The eligible requests, origin by origin (R151). -/
theorem State.requestEligible_iff {i : SlotIndex} : s.RequestEligible i ↔
    (s.request? i = some .quiet ∧ (s.slot i).state = .live) ∨
    (s.request? i = some .recovery ∧ (s.slot i).state = .fenced ∧
      (s.slot i).config.autoRestore = true ∧ (s.slot i).verdict = true) ∨
    (s.request? i = some .command ∧
      ((s.slot i).state.accepting = true ∨ (s.slot i).state = .fenced)) := by
  rw [← SlotRecord.eligible_quiet_iff, ← SlotRecord.eligible_recovery_iff,
    ← SlotRecord.eligible_command_iff]
  constructor
  · rintro ⟨o, requested, eligible⟩
    cases o with
    | quiet => exact .inl ⟨requested, eligible⟩
    | recovery => exact .inr (.inl ⟨requested, eligible⟩)
    | command => exact .inr (.inr ⟨requested, eligible⟩)
  · rintro (h | h | h)
    · exact ⟨.quiet, h⟩
    · exact ⟨.recovery, h⟩
    · exact ⟨.command, h⟩

theorem State.eligible_eq_false {i : SlotIndex} {o : ProbeOrigin} (ineligible : ¬ s.RequestEligible i)
    (requested : s.request? i = some o) : (s.slot i).eligible o = false :=
  Bool.eq_false_iff.mpr fun eligible => ineligible ⟨o, requested, eligible⟩

theorem ProbeEngine.idle_iff {e : ProbeEngine} : e.idle = true ↔ e.inFlight = none :=
  Option.isNone_iff_eq_none

theorem State.requestCount_pos {i : SlotIndex} (waits : s.request? i ≠ none) : 0 < s.requestCount :=
  List.length_pos_of_mem
    (List.mem_filter.mpr ⟨mem_allSlots i, Option.isSome_iff_ne_none.mpr waits⟩)

/-- A service that is due scans the slots from after the pointer (R151). -/
theorem execProbeService_due (idle : s.engine.inFlight = none) (watching : s.mgmt.mode = .watching)
    (room : s.table.length < 2048) (waits : ∃ i, s.request? i ≠ none) :
    exec .probeService s = .next (s.serviceScan (serviceOrder s.engine.pointer)) := by
  obtain ⟨i, waits⟩ := waits
  have due : s.serviceDue = true := by
    simp only [State.serviceDue, Bool.and_eq_true, decide_eq_true_eq]
    exact ⟨⟨⟨ProbeEngine.idle_iff.mpr idle, watching⟩, State.requestCount_pos waits⟩,
      State.tableHasRoom_iff.mpr room⟩
  exact congrArg Host.Outcome.next (if_pos due)

/-- Where a slot stands in the order in which a service examines the slots: 0 just after the pointer. -/
def servicePlace (pointer i : SlotIndex) : Nat := (i.val + 31 - pointer.val) % 32

/-- A service examines, before a slot, the slots of lower places. -/
theorem serviceOrder_split (pointer i : SlotIndex) : ∃ before after,
    serviceOrder pointer = before ++ i :: after ∧
      ∀ j, j ∈ before ↔ servicePlace pointer j < servicePlace pointer i := by
  obtain ⟨-, all, ascending⟩ := serviceOrder_all pointer
  obtain ⟨before, after, split⟩ := List.append_of_mem (all i)
  rw [split, List.pairwise_append, List.pairwise_cons] at ascending
  obtain ⟨-, ⟨later, -⟩, earlier⟩ := ascending
  refine ⟨before, after, split, fun j =>
    ⟨fun hj => earlier j hj i List.mem_cons_self, fun lower => ?_⟩⟩
  obtain hj | hj | hj : j ∈ before ∨ j = i ∨ j ∈ after := by
    simpa [split] using all j
  · exact hj
  · exact absurd lower (hj ▸ Nat.lt_irrefl _)
  · exact absurd lower (Nat.lt_asymm (later j hj))

/-- A scan of all slots that meets no eligible request empties the set (R151). -/
theorem State.serviceScan_order_none (ineligible : ∀ i, ¬ s.RequestEligible i) :
    s.serviceScan (serviceOrder s.engine.pointer) = s.withRequests (Vector.replicate 32 none) := by
  obtain ⟨-, all, -⟩ := serviceOrder_all s.engine.pointer
  rw [s.serviceScan_none _ fun i _ _ => State.eligible_eq_false (ineligible i)]
  exact s.withRequests_congr fun j => by simp [all]

/-- A scan launches the eligible request of the lowest place and drops those of lower places (R151). -/
theorem State.serviceScan_order_first {i : SlotIndex} {o : ProbeOrigin} (eligible : s.RequestEligible i)
    (requested : s.request? i = some o) (first : ∀ j, s.RequestEligible j →
      servicePlace s.engine.pointer i ≤ servicePlace s.engine.pointer j) :
    s.serviceScan (serviceOrder s.engine.pointer) =
      (s.withRequests (Vector.ofFn fun j =>
        if servicePlace s.engine.pointer j < servicePlace s.engine.pointer i then none
        else s.request? j)).launch i o := by
  obtain ⟨before, after, split, lower⟩ := serviceOrder_split s.engine.pointer i
  obtain ⟨o', requested', eligible⟩ := eligible
  obtain rfl : o = o' := Option.some.inj (requested.symm.trans requested')
  have dropped : ∀ j ∈ before, ∀ o, s.request? j = some o → (s.slot j).eligible o = false :=
    fun j hj _ => State.eligible_eq_false fun e => absurd ((lower j).mp hj) (Nat.not_lt.mpr (first j e))
  rw [split, s.serviceScan_first before i after o dropped
    (fun hi => Nat.lt_irrefl _ ((lower i).mp hi)) requested eligible]
  simp only [lower]

end Service

/-- Settles O53: a service that is due is a scan of all slots, which finds no eligible request or
launches the first. -/
theorem serviceOfTheRequestSet : Obligations.ServiceOfTheRequestSet := by
  intro s idle watching room waits eligible place
  have service := execProbeService_due idle watching room waits
  refine ⟨fun ineligible => ?_, fun i o chosen requested first => ?_⟩
  · exact service.trans (congrArg Host.Outcome.next
      (State.serviceScan_order_none fun i h => ineligible i (State.requestEligible_iff.mp h)))
  · exact service.trans (congrArg Host.Outcome.next
      (State.serviceScan_order_first (State.requestEligible_iff.mpr chosen) requested
        fun j h => first j (State.requestEligible_iff.mp h)))

end Sys2Proof.Machine

namespace Sys2Proof.Machine

/-! ### PROBE (R148) -/

section ProbeRule

variable {s : State} {i : SlotIndex} (c : CommandCopy)

theorem probeRule_state (refused : s.mgmt.mode ≠ .watching ∨
    ¬ ((s.slot i).state.accepting = true ∨ (s.slot i).state = .fenced)) :
    probeRule s i c = .refuse .state := by
  unfold probeRule
  by_cases watching : s.mgmt.mode = .watching
  · have ineligible : (s.slot i).eligible .command = false :=
      Bool.eq_false_iff.mpr (mt SlotRecord.eligible_command_iff.mp (refused.neg_resolve_left watching))
    exact (if_neg (not_not.mpr watching)).trans (if_pos ineligible)
  · exact if_pos watching

variable (watching : s.mgmt.mode = .watching)
  (probed : (s.slot i).state.accepting = true ∨ (s.slot i).state = .fenced)

include watching probed

/-- After the checks of mode and slot PROBE asks for an IDLE engine. -/
theorem probeRule_probed :
    probeRule s i c = if s.engine.idle = false then .refuse .busy else s.commandProbe i := by
  unfold probeRule
  have eligible : (s.slot i).eligible .command = true := SlotRecord.eligible_command_iff.mpr probed
  exact (if_neg (not_not.mpr watching)).trans (if_neg (by simp [eligible]))

theorem probeRule_busy (flies : s.engine.inFlight ≠ none) :
    probeRule s i c = .refuse .busy := by
  rw [probeRule_probed c watching probed,
    if_pos (Bool.eq_false_iff.mpr (mt ProbeEngine.idle_iff.mp flies))]

theorem probeRule_launched (idle : s.engine.inFlight = none) (room : s.table.length < 2048) :
    probeRule s i c = .done (s.launch i .command) ([1] ++ be32 (s.launchTag i).toNat) := by
  rw [probeRule_probed c watching probed, if_neg (by rw [ProbeEngine.idle_iff.mpr idle]; nofun)]
  exact if_pos (State.tableHasRoom_iff.mpr room)

theorem probeRule_queued (idle : s.engine.inFlight = none) (full : 2048 ≤ s.table.length) :
    probeRule s i c = .done (s.setRequest i (some .command)) [0, 0, 0, 0, 0] := by
  rw [probeRule_probed c watching probed, if_neg (by rw [ProbeEngine.idle_iff.mpr idle]; nofun)]
  exact if_neg (mt State.tableHasRoom_iff.mp (Nat.not_lt.mpr full))

end ProbeRule

theorem State.launchTag_free {s : State} {i : SlotIndex}
    (free : s.findEntry i (s.tagOf s.engine.seq) = none) :
    s.launchTag i = s.tagOf s.engine.seq :=
  congrArg s.tagOf (s.launchSeq_free i free)

theorem State.launch_inFlight {s : State} {i : SlotIndex} (o : ProbeOrigin) :
    (s.launch i o).engine.inFlight =
      some ⟨i, s.slotAddr i, s.launchTag i, o, s.time.tick⟩ :=
  congrArg (fun t => t.engine.inFlight) (s.launch_eq i o)

/-- Settles O52: PROBE by its checks, then by whether the table has room. -/
theorem probeCommand : Obligations.ProbeCommand := by
  intro s a seq i holds addressed tag probed
  refine ⟨fun refused => congrArg Host.Outcome.next ?_, fun watching probed =>
    ⟨fun flies => congrArg Host.Outcome.next ?_, fun idle room => ?_,
      fun idle full => congrArg Host.Outcome.next ?_⟩⟩
  · exact State.runSlotCommand_refuse holds rfl addressed .state (probeRule_state _ refused)
  · exact State.runSlotCommand_refuse holds rfl addressed .busy (probeRule_busy _ watching probed flies)
  · have launched : exec .probe s = .next ((s.launch i .command).answered 0x1A seq .own
        ([1] ++ be32 (s.launchTag i).toNat)) :=
      congrArg Host.Outcome.next (State.runSlotCommand_done holds rfl addressed
        (probeRule_launched _ watching probed idle room))
    refine ⟨fun free => ?_, fun p flies => ?_⟩
    · rw [launched, State.launchTag_free free]
      rfl
    · obtain rfl := Option.some.inj ((State.launch_inFlight _).symm.trans flies)
      exact launched
  · exact State.runSlotCommand_done holds rfl addressed (probeRule_queued _ watching probed idle full)

end Sys2Proof.Machine

namespace Sys2Proof.Machine

/-! ### PROBE_RESULT (R144, R155, R198) -/

theorem allSlots_eq_finRange : allSlots = List.finRange 32 := by decide

/-- The slots that wait in the request set (R149). -/
theorem State.requestCount_eq (s : State) :
    s.requestCount = ((List.finRange 32).filter fun i => (s.request? i).isSome).length := by
  unfold State.requestCount
  rw [allSlots_eq_finRange]

/-- The in-flight flag and the in-flight fields (R155, R198). -/
theorem State.inFlightBytes_eq (s : State) :
    be8 (boolCode (!s.engine.idle)) ++ s.inFlightBytes =
      match s.engine.inFlight with
      | none => [0, 0, 0, 0, 0, 0, 0, 0, 0, 0, 0, 0, 0]
      | some p => [1] ++ ([1] ++ be8 p.addr) ++ ([1] ++ be32 p.tag.toNat) ++
          ([1] ++ be8 p.origin.code) ++ ([1] ++ be16 (min 65535 (s.time.tick - p.launch).toNat)) := by
  unfold State.inFlightBytes ProbeEngine.idle
  cases s.engine.inFlight with
  | none =>
    simp only [Option.map_none]
    rfl
  | some p => rfl

theorem LastResult.probeBytes_eq (l : LastResult) :
    l.probeBytes = match l.probe with
      | none => [0, 0, 0, 0, 0, 0, 0, 0, 0]
      | some p => ([1] ++ be8 p.addr) ++ ([1] ++ be32 p.tag.toNat) ++ ([1] ++ be8 p.origin.code) := by
  unfold LastResult.probeBytes
  cases l.probe <;> rfl

theorem LastResult.answerBytes_eq (l : LastResult) :
    l.answerBytes = match l.answer with
      | none => [0, 0, 0, 0, 0, 0, 0, 0]
      | some x => ([1] ++ be16 x.latency) ++ ([1] ++ be32 x.digest.toNat) := by
  unfold LastResult.answerBytes
  cases l.answer <;> rfl

/-- Settles O54: the reply group by group, each optional group absent or present. -/
theorem probeResultReadsAndClearsFresh : Obligations.ProbeResultReadsAndClearsFresh := by
  intro s seq holds l
  refine congrArg Host.Outcome.next (State.runCommand_done holds rfl nofun rfl rfl
    (congrArg (CommandResult.done _) ?_))
  unfold State.probeFigures
  rw [State.inFlightBytes_eq, State.requestCount_eq, LastResult.probeBytes_eq,
    LastResult.answerBytes_eq, be8_boolCode] <;> rfl

end Sys2Proof.Machine

namespace Sys2Proof.Machine

/-! ### ENUMERATE (R156, R187) -/

theorem be8_toNat (b : Byte) : be8 b.toNat = [b] := by
  unfold be8
  rw [BitVec.ofNat_toNat, BitVec.setWidth_eq]

section Enumerate

variable {s : State}

theorem State.canExecute_of_room {c : CommandCopy} (started : s.mgmt.mode ≠ .starting)
    (room : s.needsReply c = true → s.mgmt.replyQueue.length < 4) : s.canExecute c = true := by
  have mode : s.mode ≠ .starting := started
  cases needs : s.needsReply c with
  | false => simp [State.canExecute, mode, needs]
  | true => simp [State.canExecute, mode, needs, Config.replyCapacity, room needs]

variable {n seq : Byte}

/-- The end-of-chain monitor alone answers a copy of ENUMERATE (R181, R187). -/
theorem State.needsReply_enumerate :
    s.needsReply ⟨[0x01, n], seq, .all⟩ = s.trunk.endStrap := by
  simp [State.needsReply, CommandCopy.code?]

theorem enumerateRule_eq : enumerateRule s ⟨[0x01, n], seq, .all⟩ =
    .done (s.setChain (addressOf n.toNat)) [n] :=
  congrArg (CommandResult.done _) (be8_toNat n)

/-- A copy of ENUMERATE that arrived by the ALL code is executed once its reply has room (R181). -/
theorem execEnumerate_taken (copy : s.mgmt.command = some ⟨[0x01, n], seq, .all⟩)
    (started : s.mgmt.mode ≠ .starting)
    (room : s.trunk.endStrap = true → s.mgmt.replyQueue.length < 4) :
    exec .enumerate s = .next (s.concludeCopy ⟨[0x01, n], seq, .all⟩
      (.done (s.setChain (addressOf n.toNat)) [n])) := by
  have can : s.canExecute ⟨[0x01, n], seq, .all⟩ = true :=
    State.canExecute_of_room started (State.needsReply_enumerate ▸ room)
  refine congrArg Host.Outcome.next ?_
  unfold State.runCommand
  rw [copy, ← enumerateRule_eq]
  exact if_pos ⟨rfl, can⟩

end Enumerate

/-- Settles O34: the new address is set, the probe cancelled first where it changes, and the end of chain
answers after that. -/
theorem enumerateSetsTheChainAddress : Obligations.EnumerateSetsTheChainAddress := by
  intro s n seq copy started room a u t
  refine (execEnumerate_taken copy started room).trans (congrArg Host.Outcome.next ?_)
  unfold State.concludeCopy
  rw [State.needsReply_enumerate]
  cases strap : s.trunk.endStrap with
  | false => rfl
  | true => rfl

end Sys2Proof.Machine

namespace Sys2Proof.Machine

/-! ### Records handed to pacing (R166) -/

/-- At hold 0 the record passes with the suppressed count, and the hold takes the quiet gap (R166). -/
theorem State.submitVerdict_passed {s : State} {i : SlotIndex} {k : VerdictKind}
    (hold : (s.slot i).pacing.get k = 0) (applied : Policy) (after : SlotState) (figure : Nat)
    (partner : Option Nat) (tag : Option Tag) :
    s.submitVerdict i k applied after figure partner tag =
      (s.setSlot i { s.slot i with
        pacing := (s.slot i).pacing.set k (s.policySet i).quietGap
        suppressed := (s.slot i).suppressed.set k 0 }).queueAlert
        (.verdict (s.slotAddr i) k applied after figure partner tag ((s.slot i).suppressed.get k)) :=
  if_pos hold

/-- At a hold above 0 the record is discarded and counted (R166). -/
theorem State.submitVerdict_suppressed {s : State} {i : SlotIndex} {k : VerdictKind}
    (hold : (s.slot i).pacing.get k ≠ 0) (applied : Policy) (after : SlotState) (figure : Nat)
    (partner : Option Nat) (tag : Option Tag) :
    s.submitVerdict i k applied after figure partner tag =
      s.setSlot i { s.slot i with
        suppressed := (s.slot i).suppressed.set k (satAdd 255 ((s.slot i).suppressed.get k) 1) } :=
  if_neg hold

/-- Settles O9: the outbox with room and the full one, then the hold at 0 and above it. -/
theorem alertQueueAndPacing : Obligations.AlertQueueAndPacing := by
  refine ⟨fun s r => ⟨fun room => ?_, fun full => ?_⟩, ?_⟩
  · exact s.queueAlert_room r room
  · exact s.queueAlert_full r (Nat.not_lt.mpr full)
  · intro s i k applied after figure partner tag r
    refine ⟨fun hold => ?_, fun hold => ?_⟩
    · exact State.submitVerdict_passed hold applied after figure partner tag
    · exact State.submitVerdict_suppressed hold applied after figure partner tag

end Sys2Proof.Machine

namespace Sys2Proof.Machine

/-! ### The census figures (R171) -/

theorem State.countState_eq (s : State) (st : SlotState) :
    s.countState st = ((List.finRange 32).filter fun i => decide ((s.slot i).state = st)).length := by
  unfold State.countState
  rw [allSlots_eq_finRange]

/-- The oldest pending age is the maximum of 0 and the oldest ages of the slots. -/
theorem State.oldestPendingAge_eq_max (s : State) :
    s.oldestPendingAge = (0 :: allSlots.map s.oldestAge).max (List.cons_ne_nil _ _) :=
  List.foldl_map.symm

theorem State.oldestAge_le_oldestPendingAge (s : State) (i : SlotIndex) :
    s.oldestAge i ≤ s.oldestPendingAge := by
  rw [State.oldestPendingAge_eq_max]
  exact List.le_max_of_mem (List.mem_cons_of_mem _ (List.mem_map_of_mem (mem_allSlots i)))

theorem State.oldestPendingAge_attained (s : State) :
    s.oldestPendingAge = 0 ∨ ∃ i, s.oldestAge i = s.oldestPendingAge := by
  have member := List.max_mem (List.cons_ne_nil 0 (allSlots.map s.oldestAge))
  rw [← State.oldestPendingAge_eq_max, List.mem_cons, List.mem_map] at member
  obtain zero | ⟨i, -, age⟩ := member
  · exact .inl zero
  · exact .inr ⟨i, age⟩

/-- The last-window completions counters of the LIVE slots. -/
def State.liveCompletions (s : State) : List Nat :=
  (allSlots.filter fun i => decide ((s.slot i).state = .live)).map
    fun i => (s.slot i).lastWindow.completions

theorem State.mem_liveCompletions {s : State} {n : Nat} :
    n ∈ s.liveCompletions ↔ ∃ i, (s.slot i).state = .live ∧ (s.slot i).lastWindow.completions = n := by
  simp [State.liveCompletions, mem_allSlots]

/-- The minimum LIVE completions are the minimum of FFFFh and the counters of the LIVE slots. -/
theorem State.minLive_eq_min (s : State) :
    s.minLive = (Config.max16 :: s.liveCompletions).min (List.cons_ne_nil _ _) := by
  unfold State.liveCompletions State.minLive
  change _ = List.foldl min _ _
  rw [List.foldl_map, List.foldl_filter]
  simp only [decide_eq_true_eq]

theorem State.minLive_le_of_live {s : State} {i : SlotIndex} (live : (s.slot i).state = .live) :
    s.minLive ≤ (s.slot i).lastWindow.completions := by
  rw [State.minLive_eq_min]
  exact List.min_le_of_mem (List.mem_cons_of_mem _ (State.mem_liveCompletions.mpr ⟨i, live, rfl⟩))

theorem State.minLive_le_max16 (s : State) : s.minLive ≤ Config.max16 := by
  rw [State.minLive_eq_min]
  exact List.min_le_of_mem List.mem_cons_self

theorem State.minLive_attained (s : State) :
    s.minLive = Config.max16 ∨
      ∃ i, (s.slot i).state = .live ∧ (s.slot i).lastWindow.completions = s.minLive := by
  have member := List.min_mem (List.cons_ne_nil Config.max16 s.liveCompletions)
  rwa [← State.minLive_eq_min, List.mem_cons, State.mem_liveCompletions] at member

/-! ### The census instant (R165, R170) -/

theorem State.censusInstant_elsewhere {s : State} (mode : s.mgmt.mode ≠ .watching) :
    s.censusInstant = s.clearPeriod := if_neg mode

/-- In WATCHING the record of a census instant joins an outbox with room (R162, R171). -/
theorem State.censusInstant_room {s : State} (mode : s.mgmt.mode = .watching)
    (room : s.report.outbox.length < Config.outboxCapacity) :
    s.censusInstant = { s with report := { s.report with
      periodVerdicts := 0
      outbox := s.report.outbox ++ [⟨s.censusRecord s.report.periodVerdicts, s.mgmt.chain⟩] } } := by
  have placed : s.censusAlert = s.queueAlert (s.censusRecord s.report.periodVerdicts) := if_pos room
  calc s.censusInstant
    _ = s.censusAlert.clearPeriod := if_pos mode
    _ = _ := by rw [placed, s.queueAlert_room _ room]; rfl

/-- In WATCHING a census instant that finds the outbox full leaves its record owed (R165). -/
theorem State.censusInstant_owed {s : State} (mode : s.mgmt.mode = .watching)
    (full : ¬ s.report.outbox.length < Config.outboxCapacity) :
    s.censusInstant = { s with report := { s.report with
      periodVerdicts := 0
      censusOwed := true
      owedVerdicts := satAdd Config.max16 s.report.owedVerdicts s.report.periodVerdicts } } := by
  calc s.censusInstant
    _ = s.censusAlert.clearPeriod := if_pos mode
    _ = _ := congrArg State.clearPeriod (if_neg full)

/-- Settles O24: by the mode, then by the room in the outbox; the two extreme figures are the maximum and the
minimum of a list. -/
theorem censusInstant : Obligations.CensusInstant := by
  intro s number counts
  refine ⟨fun mode => State.censusInstant_elsewhere mode,
    fun mode room => ⟨s.oldestPendingAge, s.minLive, ?_, s.oldestAge_le_oldestPendingAge,
      s.oldestPendingAge_attained, fun _ => State.minLive_le_of_live, s.minLive_le_max16,
      s.minLive_attained⟩,
    fun mode full => State.censusInstant_owed mode (Nat.not_lt.mpr full)⟩
  have figures : s.stateCounts = counts := by
    simp only [State.stateCounts, State.countState_eq, counts, number]
  rw [State.censusInstant_room mode room, ← figures]
  rfl

end Sys2Proof.Machine

namespace Sys2Proof.Machine

/-! ### CENSUS_QUERY (R172, R176) -/

section CensusQuery

variable {s : State} {seq : Byte}

/-- The end-of-chain monitor alone answers a CENSUS_QUERY (R172, R181). -/
theorem State.needsReply_censusQuery : s.needsReply ⟨[0x1D], seq, .all⟩ = s.trunk.endStrap := by
  simp [State.needsReply, CommandCopy.code?]

/-- A CENSUS_QUERY is executed once the answer it owes, if any, has room (R172, R181). -/
theorem execCensusQuery_taken (copy : s.mgmt.command = some ⟨[0x1D], seq, .all⟩)
    (started : s.mgmt.mode ≠ .starting)
    (room : s.trunk.endStrap = true → s.mgmt.replyQueue.length < 4) :
    exec .censusQuery s = .next (s.concludeCopy ⟨[0x1D], seq, .all⟩
      (censusQueryRule s ⟨[0x1D], seq, .all⟩)) := by
  have can : s.canExecute ⟨[0x1D], seq, .all⟩ = true :=
    State.canExecute_of_room started (State.needsReply_censusQuery ▸ room)
  refine congrArg Host.Outcome.next ?_
  unfold State.runCommand
  rw [copy]
  exact if_pos ⟨rfl, can⟩

/-- With END inactive the copy leaves the buffer and nothing else happens (R172). -/
theorem execCensusQuery_passive (copy : s.mgmt.command = some ⟨[0x1D], seq, .all⟩)
    (started : s.mgmt.mode ≠ .starting) (strap : s.trunk.endStrap = false) :
    exec .censusQuery s = .next s.clearCommand := by
  rw [execCensusQuery_taken copy started (by simp [strap])]
  unfold State.concludeCopy censusQueryRule
  simp only [State.needsReply_censusQuery, strap, Bool.false_eq_true, if_false]

/-- The end-of-chain monitor places the CEN frame that it originates (R172). -/
theorem execCensusQuery_originates (copy : s.mgmt.command = some ⟨[0x1D], seq, .all⟩)
    (started : s.mgmt.mode ≠ .starting) (strap : s.trunk.endStrap = true)
    (room : s.mgmt.replyQueue.length < 4) :
    exec .censusQuery s =
      .next (s.placeReply (mkFrame 7 0 0 0 (s.originCen seq).payload)).clearCommand := by
  rw [execCensusQuery_taken copy started fun _ => room]
  unfold State.concludeCopy censusQueryRule
  simp only [State.needsReply_censusQuery, strap, if_true]

/-- In WATCHING the frame carries this monitor's own figures (R172, R176). -/
theorem State.originCen_payload_watching (mode : s.mgmt.mode = .watching) :
    (s.originCen seq).payload =
      s.stateCounts.bytes2 ++ be16 s.table.length ++ be16 s.oldestPendingAge ++ be16 s.minLive
        ++ be16 s.report.periodVerdicts ++ [1, 0, seq] := by
  have watching : s.mode = .watching := mode
  unfold State.originCen CenFields.payload
  rw [if_pos watching, List.append_assoc, List.append_assoc]
  rfl

/-- Outside WATCHING the frame carries zeros, FFFFh and one monitor not watching (R172, R176). -/
theorem State.originCen_payload_elsewhere (mode : s.mgmt.mode ≠ .watching) :
    (s.originCen seq).payload = List.replicate 18 0 ++ [0xFF, 0xFF, 0, 0, 0, 1, seq] := by
  have elsewhere : s.mode ≠ .watching := mode
  have zero : be16 0 = [0, 0] := by decide
  have ffff : be16 Config.max16 = [0xFF, 0xFF] := by decide
  unfold State.originCen CenFields.payload
  rw [if_neg elsewhere]
  simp only [StateCounts.bytes2, StateCounts.zero, zero, ffff]
  rfl

end CensusQuery

/-- Settles O56: the end of chain alone answers, with the payload that its mode gives. -/
theorem censusQueryAtTheEndOfTheChain : Obligations.CensusQueryAtTheEndOfTheChain := by
  intro s seq copy started done placed
  refine ⟨fun strap => execCensusQuery_passive copy started strap, fun strap room => ?_⟩
  rw [execCensusQuery_originates copy started strap room]
  refine ⟨fun mode => ?_, fun mode => ?_⟩
  · rw [State.originCen_payload_watching mode]
    rfl
  · rw [State.originCen_payload_elsewhere mode]
    rfl

end Sys2Proof.Machine

namespace Sys2Proof.Machine

/-! ### A copy refused (R182, steps 1 to 3) -/

section RefusedCopy

variable {s : State} {c : CommandCopy}

/-- A copy of any other command needs a reply where it arrived by the own address (R181). -/
theorem State.needsReply_of_code (enumerate : c.code? ≠ some 0x01) (censusQuery : c.code? ≠ some 0x1D) :
    s.needsReply c = decide (c.arrived = .own) := by
  unfold State.needsReply
  rw [decide_eq_false enumerate, decide_eq_false censusQuery, Bool.or_false, Bool.and_false,
    Bool.or_false]

/-- With END inactive a copy of any command needs a reply where it arrived by the own address (R181). -/
theorem State.needsReply_of_strap (strap : s.trunk.endStrap = false) :
    s.needsReply c = decide (c.arrived = .own) := by
  simp [State.needsReply, strap]

/-- A refused copy that needs a reply is answered with the result code (R182). -/
theorem State.refuseCopy_replied (needs : s.needsReply c = true) (r : ResultCode) :
    s.refuseCopy c r = { s with mgmt := { s.mgmt with
      command := none
      replyQueue := s.mgmt.replyQueue ++ [s.replyFrame c r []] } } := by
  unfold State.refuseCopy
  rw [if_pos needs]
  rfl

/-- Where its addressing alone decides on the reply, a refused copy ends in `turnedAway`, with code 00h for
an empty payload (R182, R184). -/
theorem State.refuseCopy_turnedAway (needs : s.needsReply c = decide (c.arrived = .own))
    (r : ResultCode) :
    s.refuseCopy c r = s.turnedAway (c.payload.headD 0) c.seq c.arrived r.code := by
  by_cases own : c.arrived = .own
  · rw [State.refuseCopy_replied (needs.trans (decide_eq_true own))]
    simp [State.turnedAway, own, State.replyFrame, State.mrp, CommandCopy.code?, be8]
  · unfold State.refuseCopy
    simp [needs, own, State.turnedAway, State.clearCommand, State.setCmdDropped, State.setFlags]

/-- A copy allowed as it arrived whose length is not that of its command is refused with RANGE (R182,
step 3). -/
theorem State.runCommand_wrongLength {k : CommandForm} {effect : State → CommandCopy → CommandResult}
    (copy : s.mgmt.command = some c) (code : c.code? = some k.code) (can : s.canExecute c = true)
    (allowed : k.cls.allows c.arrived = true) (length : c.payload.length ≠ 1 + k.width) :
    s.runCommand k effect = s.refuseCopy c .range := by
  unfold State.runCommand State.executeCopy
  simp only [copy, code, can, allowed, length, and_self, if_true, Bool.true_eq_false, if_false, ne_eq,
    not_false_eq_true]

/-- A copy with no assigned command code is refused with UNKNOWN (R182, step 1). -/
theorem execUnknown_refused (copy : s.mgmt.command = some c) (unassigned : c.unassigned = true)
    (can : s.canExecute c = true) : execUnknown s = .next (s.refuseCopy c .unknown) := by
  unfold execUnknown
  rw [copy]
  exact congrArg Host.Outcome.next (if_pos ⟨unassigned, can⟩)

/-- The payloads that step 1 of R182 refuses: empty, or a first byte outside 01h to 1Dh. -/
theorem CommandCopy.unassigned_of_payload (bad : c.payload = [] ∨
    ∃ code ps, c.payload = code :: ps ∧ (code = 0 ∨ 0x1D < code.toNat)) : c.unassigned = true := by
  obtain empty | ⟨code, ps, payload, zero | above⟩ := bad
  · simp [CommandCopy.unassigned, CommandCopy.code?, empty]
  · simp [CommandCopy.unassigned, CommandCopy.code?, payload, assignedCode, zero]
  · simp [CommandCopy.unassigned, CommandCopy.code?, payload, assignedCode, Nat.not_le.mpr above]

theorem CommandCopy.code?_ne_of_unassigned (unassigned : c.unassigned = true) {code : Byte}
    (assigned : assignedCode code = true) : c.code? ≠ some code := by
  intro coded
  simp [CommandCopy.unassigned, coded, assigned] at unassigned

end RefusedCopy

/-! ### The catalogue (R180) -/

/-- Only the rows of class ALL carry the codes of ENUMERATE and CENSUS_QUERY. -/
theorem commandForms_code : ∀ row ∈ commandForms, row.2.2.1 ≠ .all → row.2.1 ≠ 0x01 ∧ row.2.1 ≠ 0x1D := by
  decide

theorem CommandClass.own_allows_eq_false {how : Addressing} (other : how ≠ .own) :
    CommandClass.own.allows how = false := by
  cases how with
  | own => exact absurd rfl other
  | group => rfl
  | all => rfl

theorem CommandClass.all_allows_eq_false {how : Addressing} (other : how ≠ .all) :
    CommandClass.all.allows how = false := by
  cases how with
  | own => rfl
  | group => rfl
  | all => exact absurd rfl other

/-- With END inactive an all-addressed copy of a wrong length is ignored with CMD_DROPPED (R181, R182). -/
theorem State.runCommand_length_dropped {s : State} {code seq : Byte} {ps : List Byte} {width : Nat}
    {effect : State → CommandCopy → CommandResult} (holds : s.Holds code ps seq .all)
    (strap : s.trunk.endStrap = false) (length : ps.length ≠ width) :
    s.runCommand ⟨code, .all, width⟩ effect = s.turnedAway code seq .all 3 := by
  have needs : s.needsReply ⟨code :: ps, seq, .all⟩ = false := State.needsReply_of_strap strap
  have can : s.canExecute ⟨code :: ps, seq, .all⟩ = true :=
    State.canExecute_of_room holds.started fun need => absurd (needs.symm.trans need) nofun
  calc s.runCommand ⟨code, .all, width⟩ effect
    _ = s.refuseCopy ⟨code :: ps, seq, .all⟩ .range :=
      State.runCommand_wrongLength holds.copy rfl can rfl (by simp only [List.length_cons]; omega)
    _ = _ := State.refuseCopy_turnedAway needs .range

/-- The end-of-chain monitor answers a copy of ENUMERATE or CENSUS_QUERY of a wrong length (R181, R182). -/
theorem State.runCommand_length_answered {s : State} {code seq : Byte} {ps : List Byte} {width : Nat}
    {effect : State → CommandCopy → CommandResult}
    (copy : s.mgmt.command = some ⟨code :: ps, seq, .all⟩) (started : s.mgmt.mode ≠ .starting)
    (strap : s.trunk.endStrap = true) (room : s.mgmt.replyQueue.length < 4)
    (coded : code = 0x01 ∨ code = 0x1D) (length : ps.length ≠ width) :
    s.runCommand ⟨code, .all, width⟩ effect = { s with mgmt := { s.mgmt with
      command := none
      replyQueue := s.mgmt.replyQueue ++ [s.mrp code seq 3 []] } } := by
  have needs : s.needsReply ⟨code :: ps, seq, .all⟩ = true :=
    State.needsReply_of_all rfl strap (coded.imp (congrArg some) (congrArg some))
  calc s.runCommand ⟨code, .all, width⟩ effect
    _ = s.refuseCopy ⟨code :: ps, seq, .all⟩ .range :=
      State.runCommand_wrongLength copy rfl (State.canExecute_of_room started fun _ => room) rfl
        (by simp only [List.length_cons]; omega)
    _ = _ := State.refuseCopy_replied needs .range

/-- A copy of UNKNOWN ends in `turnedAway` (R182, step 1). -/
theorem execUnknown_turnedAway {s : State} {c : CommandCopy} (copy : s.mgmt.command = some c)
    (started : s.mgmt.mode ≠ .starting) (room : c.arrived = .own → s.mgmt.replyQueue.length < 4)
    (unassigned : c.unassigned = true) :
    execUnknown s = .next (s.turnedAway (c.payload.headD 0) c.seq c.arrived 4) := by
  have needs : s.needsReply c = decide (c.arrived = .own) :=
    State.needsReply_of_code (CommandCopy.code?_ne_of_unassigned unassigned rfl)
      (CommandCopy.code?_ne_of_unassigned unassigned rfl)
  have can : s.canExecute c = true :=
    State.canExecute_of_room started fun need => room (of_decide_eq_true (needs.symm.trans need))
  rw [execUnknown_refused copy unassigned can, State.refuseCopy_turnedAway needs]
  rfl

/-- Settles O33: every row runs the copy against its form, which refuses it by class and then by length; the
end of chain answers; and a copy without an assigned code is refused before any form. -/
theorem commandChecks : Obligations.CommandChecks := by
  refine ⟨fun c code cls width row s ps seq how holds => ?_, ?_,
    fun s payload seq how copy started room bad => ?_⟩
  · obtain ⟨effect, run⟩ := exec_commandForm _ row
    have plain : cls ≠ .all → how = .all → code ≠ 0x01 ∧ code ≠ 0x1D := fun other _ =>
      commandForms_code _ row other
    rw [run s]
    refine ⟨?_, ?_, ?_, ?_, ?_⟩ <;> rintro rfl
    · exact fun other => congrArg Host.Outcome.next
        (State.runCommand_addressing holds rfl (plain nofun) (CommandClass.own_allows_eq_false other))
    · exact fun other => congrArg Host.Outcome.next
        (State.runCommand_addressing holds rfl (absurd · other) (CommandClass.all_allows_eq_false other))
    · rintro rfl length
      exact congrArg Host.Outcome.next (State.runCommand_length holds rfl nofun rfl length)
    · exact fun length => congrArg Host.Outcome.next
        (State.runCommand_length holds rfl (plain nofun) rfl length)
    · rintro rfl strap length
      exact congrArg Host.Outcome.next (State.runCommand_length_dropped holds strap length)
  · intro s ps seq started strap room refused
    refine ⟨fun copy length => congrArg Host.Outcome.next ?_,
      fun copy length => congrArg Host.Outcome.next ?_⟩
    · exact State.runCommand_length_answered copy started strap room (.inl rfl) length
    · exact State.runCommand_length_answered copy started strap room (.inr rfl) length
  · exact execUnknown_turnedAway copy started room (CommandCopy.unassigned_of_payload bad)

end Sys2Proof.Machine

namespace Sys2Proof.Machine

/-! ### SNAPSHOT and READ_SNAPSHOT (R194, R195) -/

/-- The reply to READ_SNAPSHOT: the header, the record of the slot and the address asked for (R195, R198). -/
theorem readSnapshotRule_eq {s : State} {a : Byte} {i : SlotIndex} (addressed : s.Addresses a i)
    (c : CommandCopy) :
    readSnapshotRule s i c = .done s
      (s.mgmt.snapshot.headerBytes ++ (s.mgmt.snapshot.records[i]).bytes ++ [a]) := by
  unfold readSnapshotRule
  rw [State.be8_slotAddr addressed]

/-- Settles O51: the snapshot event on the present window and tick, and the read of one record. -/
theorem snapshots : Obligations.Snapshots := by
  refine fun s a seq i how => ⟨fun holds => congrArg Host.Outcome.next ?_,
    fun holds addressed => ?_⟩
  · rw [← State.takeSnapshot_eq rfl rfl]
    exact State.runCommand_done holds rfl (fun _ => by decide) rfl rfl rfl
  · intro h r
    have reply : h.headerBytes ++ r.bytes ++ [a] = be8 h.cause.code ++ be32 h.windowNumber.toNat ++
        be32 h.tick.toNat ++ be8 r.state.code ++ be16 r.requestCount ++ be16 r.oldestAge ++
        r.lastWindow.bytes2 ++ r.totals.bytes4 ++ [a] := by
      simp only [SnapshotTable.headerBytes, SnapshotRecord.bytes, List.append_assoc]
    rw [← reply]
    exact congrArg Host.Outcome.next
      (State.runSlotCommand_done holds rfl addressed (readSnapshotRule_eq addressed _))

end Sys2Proof.Machine

namespace Sys2Proof.Machine

/-! ### IDENTIFY (R185, R186) -/

theorem MonitorFlags.byte_eq (f : MonitorFlags) : f.byte =
    (if f.linkUpErr = true then 1 else 0) + (if f.linkDownErr = true then 2 else 0) +
      (if f.cmdDropped = true then 4 else 0) + (if f.tableFull = true then 8 else 0) +
      (if f.outboxLost = true then 16 else 0) + if f.storeBad = true then 32 else 0 := by
  unfold MonitorFlags.byte
  simp only [mul_boolCode]
  rfl

/-- The flags that IDENTIFY leaves: all clear but the two whose cause still stands (R185). -/
theorem State.flagsAfterIdentify_eq (s : State) : s.flagsAfterIdentify =
    { linkUpErr := false, linkDownErr := false, cmdDropped := false,
      tableFull := decide (2048 ≤ s.table.length), outboxLost := false,
      storeBad := decide (s.store.outcome ≠ .good) } := by
  unfold State.flagsAfterIdentify
  rw [State.not_tableHasRoom, ← decide_not]
  rfl

/-- Vendor, part and revision code as the first five bytes of the reply (R185). -/
theorem identityCodes : be16 Config.vendorCode ++ be16 Config.partCode ++ be8 Config.revisionCode =
    [0x0B, 0x17, 0x21, 0x32, 0x01] := by
  decide

/-- Settles O36: the reply is formed before the flags are cleared. -/
theorem identifyReadsAndClearsFlags : Obligations.IdentifyReadsAndClearsFlags := by
  intro s seq holds f bit
  have accepted : exec .identify s =
      .next ((s.setFlags fun _ => s.flagsAfterIdentify).answered 0x02 seq .own s.identity) :=
    congrArg Host.Outcome.next (State.runCommand_done holds rfl nofun rfl rfl rfl)
  rw [accepted, State.flagsAfterIdentify_eq]
  unfold State.identity
  rw [MonitorFlags.byte_eq, identityCodes]
  rfl

end Sys2Proof.Machine

namespace Sys2Proof.Machine

/-! ### SET_RANGE and SET_GROUPS (R179, R188) -/

section RangeAndGroups

variable {s : State} {b code seq : Byte}

theorem setRangeRule_range (above : 224 < b.toNat) :
    setRangeRule s ⟨[code, b], seq, .own⟩ = .refuse .range := if_pos above

theorem setRangeRule_watching (inRange : b.toNat ≤ 224) (watching : s.mgmt.mode = .watching) :
    setRangeRule s ⟨[code, b], seq, .own⟩ = .refuse .state :=
  (if_neg (Nat.not_lt.mpr inRange)).trans (if_pos watching)

theorem setRangeRule_accepted (inRange : b.toNat ≤ 224) (elsewhere : s.mgmt.mode ≠ .watching) :
    setRangeRule s ⟨[code, b], seq, .own⟩ =
      .done { s with mgmt := { s.mgmt with watchBase := b.toNat } } [] :=
  (if_neg (Nat.not_lt.mpr inRange)).trans (if_neg elsewhere)

theorem setGroupsRule_range (above : 16 ≤ b.toNat) :
    setGroupsRule s ⟨[code, b], seq, .own⟩ = .refuse .range := if_neg (Nat.not_lt.mpr above)

theorem setGroupsRule_accepted (inRange : b.toNat < 16) :
    setGroupsRule s ⟨[code, b], seq, .own⟩ =
      .done { s with mgmt := { s.mgmt with groups := BitVec.ofNat 4 b.toNat } } [] := if_pos inRange

end RangeAndGroups

/-- Settles O37: SET_RANGE by its range and then by the mode, SET_GROUPS by its range. -/
theorem setRangeAndSetGroups : Obligations.SetRangeAndSetGroups := by
  refine fun s b seq => ⟨fun holds => ⟨fun above => ?_, fun inRange watching => ?_,
    fun inRange elsewhere => ?_⟩, fun holds => ⟨fun above => ?_, fun inRange => ?_⟩⟩ <;>
    refine congrArg Host.Outcome.next ?_
  · exact State.runCommand_refuse holds rfl nofun rfl rfl (setRangeRule_range above)
  · exact State.runCommand_refuse holds rfl nofun rfl rfl (setRangeRule_watching inRange watching)
  · exact State.runCommand_done holds rfl nofun rfl rfl (setRangeRule_accepted inRange elsewhere)
  · exact State.runCommand_refuse holds rfl nofun rfl rfl (setGroupsRule_range above)
  · exact State.runCommand_done holds rfl nofun rfl rfl (setGroupsRule_accepted inRange)

end Sys2Proof.Machine

namespace Sys2Proof.Machine

/-! ### COMMIT (R192) -/

/-- Settles O43: COMMIT is accepted in every state and however addressed, and its effect is the copying of the
tables that a MARK edge has too. -/
theorem commitCopiesStagedToActive : Obligations.CommitCopiesStagedToActive := by
  intro s seq how holds
  have committed : s.runCommand ⟨0x0D, .group, 0⟩ commitRule = s.commitTables.answered 0x0D seq how [] :=
    State.runCommand_done holds rfl (fun _ => by decide) rfl rfl rfl
  exact congrArg Host.Outcome.next committed

end Sys2Proof.Machine

namespace Sys2Proof.Machine

/-! ### STORE and the end of its write (R208, R210, R211) -/

section Store

variable {s : State} {c : CommandCopy}

/-- A write under way turns STORE away (R210). -/
theorem storeRule_busy (underway : s.store.writing ≠ none) : storeRule s c = .refuse .busy :=
  if_pos (Option.isSome_iff_ne_none.mpr underway)

/-- An idle store takes a copy of every stored item into the write buffer (R210). -/
theorem storeRule_accepted (idle : s.store.writing = none) :
    storeRule s c = .done { s with store := { s.store with writing := some s.storedItems } } [] :=
  if_neg (by simp [idle])

/-- The slot configurations that a STORE copies are those of the slot records, index by index (R208). -/
theorem State.storedItems_slots (s : State) :
    s.storedItems.slots = Vector.ofFn fun i => (s.slot i).config := by
  ext i h : 1
  simp [State.storedItems, State.slot]

/-- With no write under way the completion is no event (log entry 2). -/
theorem execStoreWriteComplete_idle (idle : s.store.writing = none) (equal : Bool) :
    execStoreWriteComplete equal s = .next s := by
  unfold execStoreWriteComplete
  rw [idle]

/-- The completion ends the write from the buffer (R211). -/
theorem execStoreWriteComplete_writing {items : StoredItems} (writing : s.store.writing = some items)
    (equal : Bool) : execStoreWriteComplete equal s = .next (s.finishWrite items equal) := by
  unfold execStoreWriteComplete
  rw [writing]

/-- An image written with a differing readback is bad (R211). -/
theorem StoreImage.good_written_different (items : StoredItems) :
    (StoreImage.mk true false items).good = false := rfl

/-- An image written with an equal readback is good where its items lie within their ranges (R202, R211). -/
theorem StoreImage.good_written_equal {items : StoredItems} (inRange : items.inRange = true) :
    (StoreImage.mk true true items).good = true := inRange

end Store

/-- Settles O55: the two answers of STORE by the write buffer, and the two cases of the completion. -/
theorem storeAndItsCompletion : Obligations.StoreAndItsCompletion := by
  refine fun s seq how => ⟨fun holds underway => ?_, fun holds idle => ?_,
    fun idle equal => execStoreWriteComplete_idle idle equal, fun items equal writing => ?_⟩
  · exact congrArg Host.Outcome.next
      (State.runCommand_refuse holds rfl (fun _ => by decide) rfl rfl (storeRule_busy underway))
  · intro stored
    have copied : s.storedItems = stored := by
      unfold stored
      rw [← State.storedItems_slots]
      rfl
    rw [← copied]
    exact congrArg Host.Outcome.next
      (State.runCommand_done holds rfl (fun _ => by decide) rfl rfl (storeRule_accepted idle))
  · refine ⟨⟨true, equal, items⟩, execStoreWriteComplete_writing writing equal, rfl, ?_, ?_⟩ <;> rintro rfl
    · exact StoreImage.good_written_different items
    · exact StoreImage.good_written_equal

end Sys2Proof.Machine

namespace Sys2Proof.Machine

/-! ### A step on a queue that is not empty -/

/-- The counterpart of `step_idle`: the step takes the front command and leaves the queue's rest. -/
theorem step_queued {s : State} {c : Instr} {rest : List Instr} (queued : s.pending = c :: rest) :
    step s = exec c { s with pending := rest } := by
  unfold step
  rw [queued]

/-- Settles O1: the second case of the step's split on the queue. -/
theorem stepRunsTheFrontCommand : Obligations.StepRunsTheFrontCommand :=
  fun _ _ _ => step_queued

end Sys2Proof.Machine
